-- ==== Sys2Proof/Word.lean ====
section
/-! DEFINITION. The words of the block: unsigned values of a stated width (spec 00_scope.md R10), bit 0 the least
significant. Every operator the spec uses on them (R11) is `BitVec`'s own: `^^^`, `&&&`, `~~~`, the logical `>>>`,
`setWidth` for zero extension, and `+` for addition modulo `2^64`. -/

namespace Sys2Proof

/-- A byte of a chunk, and the index of a table entry (R8: 8 bits). -/
abbrev Byte := BitVec 8

/-- A value of the CRC-32 units (R8: W32 = 32). -/
abbrev Word32 := BitVec 32

/-- A value of the CRC-64 units, the byte counter, `arg` and `res` (R8: 64 bits). -/
abbrev Word64 := BitVec 64

/-- A command word `CW = op ‖ arg` (30_encoding.md R71: 72 bits). -/
abbrev CommandWord := BitVec 72

end Sys2Proof
end

