-- ==== Sys2Proof/Config.lean ====
section
/-! DEFINITION. What the hardware hard-wires (spec 00_scope.md R8, R9; 10_state.md R21). Nothing here is a free
value: the spec leaves no result of a command open. -/

namespace Sys2Proof.Config

/-- POLY32, the reflected CRC-32 generator polynomial (R21). -/
def poly32 : Word32 := 0xEDB88320#32

/-- POLY64, the reflected CRC-64 generator polynomial (R21). -/
def poly64 : Word64 := 0xC96C5795D7870F42#64

/-- NENT, entries per table (R8). -/
def entries : Nat := 256

/-- ROUNDS, shift-and-XOR rounds per entry (R8). -/
def rounds : Nat := 8

end Sys2Proof.Config
end

