-- ==== Sys2Proof/Syntax.lean ====
section
/-! DEFINITION. The 14 commands of the block (spec 30_encoding.md R76), one constructor per row of
spec/opcode_table.json. There are no pseudo-instructions (R84). -/

namespace Sys2Proof

/-- A command with its operands assembled (R72, R73). A format-L command holds its byte sequence; `len` is the number
of its bytes, the reading R81 calls sound: a transaction whose `data` differs from its `len` is refused by the decoder
and is no `Instr`. -/
inductive Instr where
  /-- `BLD32`: build the CRC-32 table (R102). -/
  | bld32
  /-- `BLD64`: build the CRC-64 table (R103). -/
  | bld64
  /-- `UPD32 data`: fold a chunk into the CRC-32 state (R122). -/
  | upd32 (data : List Byte)
  /-- `UPD64 data`: fold a chunk into the CRC-64 state (R123). -/
  | upd64 (data : List Byte)
  /-- `LDS32 imm32`: load the CRC-32 state (R124). -/
  | lds32 (imm : Word32)
  /-- `LDS64 imm64`: load the CRC-64 state (R125). -/
  | lds64 (imm : Word64)
  /-- `RDS32`: read the CRC-32 state (R126). -/
  | rds32
  /-- `RDS64`: read the CRC-64 state (R127). -/
  | rds64
  /-- `RDT32 idx`: read one entry of the CRC-32 table (R104). -/
  | rdt32 (idx : Byte)
  /-- `RDT64 idx`: read one entry of the CRC-64 table (R105). -/
  | rdt64 (idx : Byte)
  /-- `SINIT`: start a session (R152). -/
  | sinit
  /-- `SCHUNK data`: deliver one chunk of the stream to the session (R153). -/
  | schunk (data : List Byte)
  /-- `RDTOT`: read the byte counter (R154). -/
  | rdtot
  /-- `RDSR`: read the status register (R155). -/
  | rdsr
  deriving DecidableEq, Repr

end Sys2Proof
end

