-- ==== Sys2Proof/WellFormed.lean ====
section
/-! DEFINITION. Which commands have an encoding: `len` is a 64-bit field, so a chunk holds fewer than `2^64` bytes
(spec 30_encoding.md R73, 92_eei_decisions.md D13). Every value of `imm32`, `imm64` and `idx` is legal (R73). -/

namespace Sys2Proof

/-- The length of a chunk fits the 64-bit field `len` (R72, R73). -/
def lengthEncodable (data : List Byte) : Bool := decide (data.length < 2 ^ 64)

/-- The command has an encoding. -/
def wellFormed (i : Instr) : Bool :=
  match i with
  | .bld32 => true
  | .bld64 => true
  | .upd32 data => lengthEncodable data
  | .upd64 data => lengthEncodable data
  | .lds32 _ => true
  | .lds64 _ => true
  | .rds32 => true
  | .rds64 => true
  | .rdt32 _ => true
  | .rdt64 _ => true
  | .sinit => true
  | .schunk data => lengthEncodable data
  | .rdtot => true
  | .rdsr => true

end Sys2Proof
end

