-- ==== Sys2Proof/Decode.lean ====
section
/-! DEFINITION. The decoder, total on every command word and every `data` (spec 30_encoding.md R75), and the encoder.
A command transaction is a 72-bit command word and a byte sequence (R70); the decoder answers a command or the fault
cause the block refuses the transaction with (R77, R81). -/

namespace Sys2Proof

/-- One request of the host: a command word and its byte sequence, empty where the format has none (R70). -/
structure Transaction where
  cw : CommandWord
  data : List Byte
  deriving DecidableEq, Repr

/-- The four synchronous faults of the block (60_exceptions.md R171). Taking one is no stop of the machine: see
`Machine.raiseFault`. -/
inductive FaultCause where
  /-- The word is none of the 14 commands, or a reserved bit of `arg` is 1 (R77). Raised by the decoder. -/
  | illegalCommand
  /-- `data` does not fit the format (R81). Raised by the decoder. -/
  | lengthMismatch
  /-- The command needs a table that is not built (R172). Raised by UPDw, RDTw and SCHUNK. -/
  | tableNotBuilt
  /-- SCHUNK after the session's end of stream (R158). Raised by SCHUNK. -/
  | sessionEnded
  deriving DecidableEq, Repr

/-- The rows of the opcode map (R76) by mnemonic. -/
inductive Opcode where
  | bld32 | bld64 | upd32 | upd64 | lds32 | lds64 | rds32 | rds64 | rdt32 | rdt64 | sinit | schunk | rdtot | rdsr
  deriving DecidableEq, Repr

/-- The five formats (R72). -/
inductive Format where
  | n | s32 | s64 | i | l
  deriving DecidableEq, Repr

/-! ## Fields of the command word (R71, R72) -/

/-- `op` = CW[71:64]. -/
def opOf (cw : CommandWord) : BitVec 8 := cw.extractLsb' 64 8

/-- `arg` = CW[63:0]; it is also `imm64` (format S64) and `len` (format L). -/
def argOf (cw : CommandWord) : Word64 := cw.extractLsb' 0 64

/-- `imm32` = CW[31:0] (format S32). -/
def imm32Of (cw : CommandWord) : Word32 := cw.extractLsb' 0 32

/-- `idx` = CW[7:0] (format I). -/
def idxOf (cw : CommandWord) : Byte := cw.extractLsb' 0 8

/-! ## The opcode map (R76) -/

/-- One row: a command word encodes the row's command exactly when `CW AND mask = pattern`. -/
structure EncodingRow where
  opcode : Opcode
  pattern : CommandWord
  mask : CommandWord
  deriving DecidableEq, Repr

/-- The rows of R76, `match` and `mask` as printed there. -/
def encodingTable : List EncodingRow :=
  [ ⟨.bld32, 0x10_0000000000000000#72, 0xFF_FFFFFFFFFFFFFFFF#72⟩,
    ⟨.bld64, 0x11_0000000000000000#72, 0xFF_FFFFFFFFFFFFFFFF#72⟩,
    ⟨.upd32, 0x20_0000000000000000#72, 0xFF_0000000000000000#72⟩,
    ⟨.upd64, 0x21_0000000000000000#72, 0xFF_0000000000000000#72⟩,
    ⟨.lds32, 0x30_0000000000000000#72, 0xFF_FFFFFFFF00000000#72⟩,
    ⟨.lds64, 0x31_0000000000000000#72, 0xFF_0000000000000000#72⟩,
    ⟨.rds32, 0x40_0000000000000000#72, 0xFF_FFFFFFFFFFFFFFFF#72⟩,
    ⟨.rds64, 0x41_0000000000000000#72, 0xFF_FFFFFFFFFFFFFFFF#72⟩,
    ⟨.rdt32, 0x50_0000000000000000#72, 0xFF_FFFFFFFFFFFFFF00#72⟩,
    ⟨.rdt64, 0x51_0000000000000000#72, 0xFF_FFFFFFFFFFFFFF00#72⟩,
    ⟨.sinit, 0x60_0000000000000000#72, 0xFF_FFFFFFFFFFFFFFFF#72⟩,
    ⟨.schunk, 0x61_0000000000000000#72, 0xFF_0000000000000000#72⟩,
    ⟨.rdtot, 0x62_0000000000000000#72, 0xFF_FFFFFFFFFFFFFFFF#72⟩,
    ⟨.rdsr, 0x63_0000000000000000#72, 0xFF_FFFFFFFFFFFFFFFF#72⟩ ]

/-- The row's `match`/`mask` test (R76). -/
def meetsRow (cw : CommandWord) (r : EncodingRow) : Bool := cw &&& r.mask == r.pattern

/-- R75 (1): the row the word meets, if any. -/
def findOpcode (cw : CommandWord) : Option Opcode :=
  (encodingTable.find? (meetsRow cw)).map (·.opcode)

/-- The format of each command (R72, R76). -/
def formatOf (o : Opcode) : Format :=
  match o with
  | .bld32 => .n
  | .bld64 => .n
  | .upd32 => .l
  | .upd64 => .l
  | .lds32 => .s32
  | .lds64 => .s64
  | .rds32 => .n
  | .rds64 => .n
  | .rdt32 => .i
  | .rdt64 => .i
  | .sinit => .n
  | .schunk => .l
  | .rdtot => .n
  | .rdsr => .n

/-- R81: format L carries exactly `len` bytes, every other format none. -/
def dataFits (f : Format) (t : Transaction) : Bool :=
  match f with
  | .l => t.data.length == (argOf t.cw).toNat
  | .n => t.data.isEmpty
  | .s32 => t.data.isEmpty
  | .s64 => t.data.isEmpty
  | .i => t.data.isEmpty

/-- R75 (3): the command with its format's fields; no operand is extended, scaled or shifted (R73). -/
def assemble (o : Opcode) (t : Transaction) : Instr :=
  match o with
  | .bld32 => .bld32
  | .bld64 => .bld64
  | .upd32 => .upd32 t.data
  | .upd64 => .upd64 t.data
  | .lds32 => .lds32 (imm32Of t.cw)
  | .lds64 => .lds64 (argOf t.cw)
  | .rds32 => .rds32
  | .rds64 => .rds64
  | .rdt32 => .rdt32 (idxOf t.cw)
  | .rdt64 => .rdt64 (idxOf t.cw)
  | .sinit => .sinit
  | .schunk => .schunk t.data
  | .rdtot => .rdtot
  | .rdsr => .rdsr

/-- The decoder (R75), IllegalCommand before LengthMismatch (60_exceptions.md R173). -/
def decode (t : Transaction) : Except FaultCause Instr :=
  match findOpcode t.cw with
  | none => .error .illegalCommand
  | some o => if dataFits (formatOf o) t then .ok (assemble o t) else .error .lengthMismatch

/-! ## The encoder -/

/-- `CW = op ‖ arg` (R71). -/
def command (op : BitVec 8) (arg : Word64) (data : List Byte) : Transaction := ⟨op ++ arg, data⟩

/-- A format-L transaction: `len` is the number of bytes (R72, R83). -/
def chunkCommand (op : BitVec 8) (data : List Byte) : Transaction :=
  command op (BitVec.ofNat 64 data.length) data

/-- The transaction of a well-formed command, op values from R76 and argument places from R72. -/
def encode (i : Instr) : Transaction :=
  match i with
  | .bld32 => command 0x10#8 0#64 []
  | .bld64 => command 0x11#8 0#64 []
  | .upd32 data => chunkCommand 0x20#8 data
  | .upd64 data => chunkCommand 0x21#8 data
  | .lds32 imm => command 0x30#8 (imm.setWidth 64) []
  | .lds64 imm => command 0x31#8 imm []
  | .rds32 => command 0x40#8 0#64 []
  | .rds64 => command 0x41#8 0#64 []
  | .rdt32 idx => command 0x50#8 (idx.setWidth 64) []
  | .rdt64 idx => command 0x51#8 (idx.setWidth 64) []
  | .sinit => command 0x60#8 0#64 []
  | .schunk data => chunkCommand 0x61#8 data
  | .rdtot => command 0x62#8 0#64 []
  | .rdsr => command 0x63#8 0#64 []

/-! ## Words as spec/opcode_table.json numbers them -/

/-- The transaction whose command word is the low `nbits` bits of `w` and whose byte sequence, which the table gives no
bits, is zeros: as many zero bytes as a format-L word's `len` says, none in another format (log 8). -/
def tableTransaction (nbits w : Nat) : Transaction :=
  let cw : CommandWord := BitVec.ofNat 72 (w % 2 ^ nbits)
  match (findOpcode cw).map formatOf with
  | some .l => ⟨cw, List.replicate (argOf cw).toNat 0#8⟩
  | some .n => ⟨cw, []⟩
  | some .s32 => ⟨cw, []⟩
  | some .s64 => ⟨cw, []⟩
  | some .i => ⟨cw, []⟩
  | none => ⟨cw, []⟩

/-- What the decoder reads from a word of spec/opcode_table.json (none where it refuses). -/
def decodeTableWord (nbits w : Nat) : Option Instr := (decode (tableTransaction nbits w)).toOption

end Sys2Proof
end

