-- ==== Sys2Proof/Machine/State.lean ====
section
/-! DEFINITION. The state of the block (spec 10_state.md R20), the host's command interface as plain data
(30_encoding.md R70, R79), the reasons a step can stop, and the state after reset (70_reset_and_hazards.md R201). -/

namespace Sys2Proof.Machine

/-- A table memory of `w`-bit entries: pairs of an index and its entry, indices strictly rising and below 256
(`Memory.wf`). An index that is not listed holds NO value (R25, R202; log 4). The addressable unit is a whole entry
(20_memory.md R50, R54), so no entry is cut into bytes (R55). -/
abbrev Memory (w : Nat) := List (Nat × BitVec w)

/-- The block's answer to one command (R79). -/
structure Response where
  /-- 0 (OK) or the fault code. -/
  status : BitVec 4
  /-- The result (R80), 0 on a fault. -/
  res : Word64
  deriving DecidableEq, Repr

/-- What the outside can do to the block (R70, R200). -/
inductive HostInput where
  /-- The host issues a command. -/
  | command (t : Transaction)
  /-- Reset is applied, either between commands or while the block executes `abandoned`, which is then given up without
  a response (R203; log 6). -/
  | reset (abandoned : Option Transaction)
  deriving DecidableEq, Repr

/-- The reasons the machine stops. A fault of the SPEC is none of them: the block goes on after it (R174), so it is a
next state (`raiseFault`). -/
inductive Fault where
  /-- A table entry that no build has written was read although the table's valid flag is 1. Raised by RDTw, UPDw and
  SCHUNK. Safe: the spec gives such an entry no value (R202), and no run reaches it (R64). -/
  | entryWithoutValue
  deriving DecidableEq, Repr

/-- The reasons the model gives a command no meaning. -/
inductive Refusal where
  /-- The command has no meaning in the model yet. Raised by no arm of `exec`: every command has its meaning. Safe. -/
  | notModelled (mnemonic : String)
  deriving DecidableEq, Repr

/-- The state: the registers, flags and tables of R20, and the two ends of the command interface. -/
structure State where
  /-- T32, the CRC-32 table (R22). -/
  t32 : Memory 32
  /-- T64, the CRC-64 table (R22). -/
  t64 : Memory 64
  /-- T32V: T32 is built (R25). -/
  t32v : Bool
  /-- T64V: T64 is built (R25). -/
  t64v : Bool
  /-- ACC32, the CRC-32 checksum state in its visible, complemented form (R26). -/
  acc32 : Word32
  /-- ACC64, the CRC-64 checksum state in its visible form (R26). -/
  acc64 : Word64
  /-- TOTAL, the bytes delivered by SCHUNK since the session's start (R27). -/
  total : Word64
  /-- EOS: the session's end of stream has been signalled (R28). -/
  eos : Bool
  /-- ERR, the code of the first fault since reset, 0 if none (R29). -/
  err : BitVec 4
  /-- The model's own (log 1): what the host still issues, the next first. -/
  inputs : List HostInput
  /-- The model's own (log 2): the responses given since reset, the oldest first. -/
  responses : List Response
  deriving DecidableEq, Repr

/-- The state after reset (R201, R202): no table is built and no entry has a value. `inputs` and `responses` are the
model's own fields, empty by its choice (log 1, log 2). -/
def State.reset : State where
  t32 := []
  t64 := []
  t32v := false
  t64v := false
  acc32 := 0
  acc64 := 0
  total := 0
  eos := false
  err := 0
  inputs := []
  responses := []

end Sys2Proof.Machine
end

