-- ==== Sys2Proof/Machine/Operands.lean ====
section
/-! DEFINITION. How a command's operands become values: the engine's one effective address (spec 41_checksum_engine.md
R133), the length a chunk adds to TOTAL, and the zero extension of a 32-bit result (30_encoding.md R80). The fields of
the command word are assembled by the decoder (R73). -/

namespace Sys2Proof.Machine

/-- The engine's index `b XOR s[7:0]` (R121, R133). -/
def engineIndex {w : Nat} (s : BitVec w) (b : Byte) : Byte := b ^^^ s.extractLsb' 0 8

/-- The field `len` of a chunk: the number of its bytes (R72, R81). -/
def chunkLength (data : List Byte) : Word64 := BitVec.ofNat 64 data.length

/-- `zext_64` of a 32-bit value (R80). -/
def zext64 (v : Word32) : Word64 := v.setWidth 64

end Sys2Proof.Machine
end

