-- ==== Sys2Proof/Machine/Crc.lean ====
section
/-! DEFINITION. The two functions of the source, written once over a width `w` and used at 32 and 64 only
(spec 00_scope.md R9): the table builder's (40_table_builder.md R100, R101) and the checksum engine's
(41_checksum_engine.md R120, R121). No bit is ever reflected (R108). -/

namespace Sys2Proof.Machine

/-- One round of the builder: shift right, and XOR the polynomial where bit 0 WAS 1 (R101). -/
def roundW {w : Nat} (p r : BitVec w) : BitVec w :=
  if r.getLsbD 0 then (r >>> 1) ^^^ p else r >>> 1

/-- `n` rounds. -/
def roundsW {w : Nat} (p : BitVec w) (n : Nat) (r : BitVec w) : BitVec w :=
  match n with
  | 0 => r
  | k + 1 => roundsW p k (roundW p r)

/-- Entry `i` of `build_table_W(P)`: 8 rounds from the zero extension of `i` (R100). -/
def tableEntry {w : Nat} (p : BitVec w) (i : Byte) : BitVec w :=
  roundsW p Config.rounds (i.setWidth w)

/-- One byte folded into the internal shift register, over a table of 256 values (R121). -/
def stepW {w : Nat} (t : Byte → BitVec w) (s : BitVec w) (b : Byte) : BitVec w :=
  t (engineIndex s b) ^^^ (s >>> 8)

/-- `update_W(t, bytes, state)`: complement, fold, complement (R120). -/
def updateW {w : Nat} (t : Byte → BitVec w) (bytes : List Byte) (state : BitVec w) : BitVec w :=
  ~~~ (bytes.foldl (stepW t) (~~~ state))

end Sys2Proof.Machine
end

