-- ==== Sys2Proof/Machine/Flags.lean ====
section
/-! DEFINITION. The fault codes (spec 60_exceptions.md R171), the ERR latch (10_state.md R29) and the STATUS view
(R30). The block has no arithmetic flags (R34). -/

namespace Sys2Proof.Machine

/-- The code of a fault: the `status` of its response and what ERR latches (R171). -/
def faultCode (c : FaultCause) : BitVec 4 :=
  match c with
  | .illegalCommand => 1#4
  | .lengthMismatch => 2#4
  | .tableNotBuilt => 3#4
  | .sessionEnded => 4#4

/-- The status of a command that executed (R79). -/
def statusOk : BitVec 4 := 0#4

/-- ERR after a fault of this code: it keeps the FIRST code (R29). -/
def latchErr (err code : BitVec 4) : BitVec 4 := if err = 0#4 then code else err

/-- `STATUS = ERR ‖ 0 ‖ EOS ‖ T64V ‖ T32V` (R30). -/
def statusView (s : State) : BitVec 8 :=
  s.err ++ 0#1 ++ BitVec.ofBool s.eos ++ BitVec.ofBool s.t64v ++ BitVec.ofBool s.t32v

end Sys2Proof.Machine
end

