-- ==== Sys2Proof/Machine/Ops.lean ====
section
/-! DEFINITION. The named operations over the tables, the registers and the response, and taking a fault, which every
meaning is written over. -/

namespace Sys2Proof.Machine

/-- What a command or a step answers. -/
abbrev Result := Host.Outcome State Fault Refusal

/-! ## Table memories (spec 20_memory.md R50 to R54) -/

/-- `MemRead(T, i)`: the whole entry, or none where no build has written it (R51, R52, R202). -/
def Memory.read {w : Nat} (m : Memory w) (i : Byte) : Option (BitVec w) :=
  match m with
  | [] => none
  | (k, x) :: rest => if k = i.toNat then some x else Memory.read rest i

/-- `MemWrite(T, i, v)`: replace entry `i`, keep the other 255 (R51, R52). -/
def Memory.write {w : Nat} (m : Memory w) (i : Byte) (v : BitVec w) : Memory w :=
  match m with
  | [] => [(i.toNat, v)]
  | (k, x) :: rest =>
    if i.toNat < k then (i.toNat, v) :: (k, x) :: rest
    else if i.toNat = k then (k, v) :: rest
    else (k, x) :: Memory.write rest i v

/-- The indices of `m` rise strictly from `lo` on and lie in 0 .. 255. -/
def Memory.risingFrom {w : Nat} (lo : Nat) (m : Memory w) : Bool :=
  match m with
  | [] => true
  | (k, _) :: rest => decide (lo ≤ k) && decide (k < Config.entries) && Memory.risingFrom (k + 1) rest

/-- The canonical form: equal memories are equal data. An unlisted index reads as no value, which no entry equals. -/
def Memory.wf {w : Nat} (m : Memory w) : Bool := Memory.risingFrom 0 m

/-- The builder's loop: write entries `0 .. n-1`, each with the value of R100. The spec lists the writes in ascending
order and says the order cannot be observed (R102); here entry `n-1` is written first, which Lean's kernel evaluates on
an empty table without walking it (log 7). -/
def Memory.fill {w : Nat} (p : BitVec w) (n : Nat) (m : Memory w) : Memory w :=
  match n with
  | 0 => m
  | k + 1 => Memory.fill p k (Memory.write m (BitVec.ofNat 8 k) (tableEntry p (BitVec.ofNat 8 k)))

/-- Write all 256 entries of `build_table_W(P)` (R102, R103). Irreducible, so that no proof unrolls the 256 writes by
accident; its laws are `Memory.read_build` and `Memory.wf_build`, and Lean's kernel evaluates it as any definition. -/
@[irreducible] def Memory.build {w : Nat} (p : BitVec w) (m : Memory w) : Memory w := Memory.fill p Config.entries m

/-- The engine's fold over the table memory: one `MemRead` per byte, in input order (R121, R133). None where an entry
read has no value. -/
def Memory.foldBytes {w : Nat} (m : Memory w) (bytes : List Byte) (s : BitVec w) : Option (BitVec w) :=
  match bytes with
  | [] => some s
  | b :: rest =>
    match Memory.read m (engineIndex s b) with
    | none => none
    | some entry => Memory.foldBytes m rest (entry ^^^ (s >>> 8))

/-- The engine over the table memory: complement, fold, complement (R120). -/
def Memory.update {w : Nat} (m : Memory w) (bytes : List Byte) (state : BitVec w) : Option (BitVec w) :=
  (Memory.foldBytes m bytes (~~~ state)).map (fun s => ~~~ s)

/-! ## Registers, flags and the two ends of the command interface -/

/-- Write T32 and its valid flag (R25). -/
def State.setTable32 (s : State) (m : Memory 32) : State := { s with t32 := m, t32v := true }
/-- Write T64 and its valid flag (R25). -/
def State.setTable64 (s : State) (m : Memory 64) : State := { s with t64 := m, t64v := true }
/-- Write ACC32 (R26). -/
def State.setAcc32 (s : State) (v : Word32) : State := { s with acc32 := v }
/-- Write ACC64 (R26). -/
def State.setAcc64 (s : State) (v : Word64) : State := { s with acc64 := v }
/-- Write TOTAL (R27). -/
def State.setTotal (s : State) (v : Word64) : State := { s with total := v }
/-- Write EOS (R28). -/
def State.setEos (s : State) (b : Bool) : State := { s with eos := b }
/-- Write ERR (R29). -/
def State.setErr (s : State) (e : BitVec 4) : State := { s with err := e }
/-- Replace what the host still issues. -/
def State.setInputs (s : State) (ins : List HostInput) : State := { s with inputs := ins }
/-- Give the host one more response (R79). -/
def State.addResponse (s : State) (r : Response) : State := { s with responses := s.responses ++ [r] }

/-! ## Ending a command -/

/-- `respond(OK, v)` (00_scope.md R12, 30_encoding.md R79). -/
def respond (v : Word64) (s : State) : Result := .next (s.addResponse ⟨statusOk, v⟩)

/-- `raise Fault(code)`, the one way a fault is taken (60_exceptions.md R174): nothing is written but the ERR latch, the
response holds the code and 0, and the block is ready for the next command. Nothing is saved, so there is no return
from a fault (R176). -/
def raiseFault (c : FaultCause) (s : State) : Result :=
  .next ((s.setErr (latchErr s.err (faultCode c))).addResponse ⟨faultCode c, 0⟩)

/-! ## Checks that precede a command's effect (R175) -/

/-- Refuse with TableNotBuilt while a table the command needs is not built (R64, R172). -/
def requireBuilt (built : Bool) (s : State) (k : Result) : Result :=
  if built then k else raiseFault .tableNotBuilt s

/-- Refuse with SessionEnded once the end of stream has been signalled (R158). -/
def requireOpen (s : State) (k : Result) : Result :=
  if s.eos then raiseFault .sessionEnded s else k

/-- Go on with a value read from a table; stop where the entry has none, which no run reaches (R64; log 4). -/
def withValue {α : Type} (x : Option α) (k : α → Result) : Result :=
  match x with
  | none => .fault .entryWithoutValue
  | some v => k v

/-! ## Reset (70_reset_and_hazards.md R200, R203) -/

/-- Reset from any state, whatever a command in execution had done: the reset state. What the host still issues is the
host's and not the block's (log 6). -/
def applyReset (remaining : List HostInput) : State := State.reset.setInputs remaining

end Sys2Proof.Machine
end

