-- ==== Sys2Proof/Machine/ChecksumEngine.lean ====
section
/-! DEFINITION. The Checksum Engines' commands (spec 41_checksum_engine.md). -/

namespace Sys2Proof.Machine

/-- `UPD32 data` (R122). -/
def execUpd32 (data : List Byte) (s : State) : Result :=
  requireBuilt s.t32v s (withValue (s.t32.update data s.acc32) fun v => respond (zext64 v) (s.setAcc32 v))

/-- `UPD64 data` (R123). -/
def execUpd64 (data : List Byte) (s : State) : Result :=
  requireBuilt s.t64v s (withValue (s.t64.update data s.acc64) fun v => respond v (s.setAcc64 v))

/-- `LDS32 imm32` (R124). -/
def execLds32 (imm : Word32) (s : State) : Result := respond 0 (s.setAcc32 imm)

/-- `LDS64 imm64` (R125). -/
def execLds64 (imm : Word64) (s : State) : Result := respond 0 (s.setAcc64 imm)

/-- `RDS32`: the visible value as it stands, no complement at read-out (R126, 90_conflicts.md C2). -/
def execRds32 (s : State) : Result := respond (zext64 s.acc32) s

/-- `RDS64` (R127). -/
def execRds64 (s : State) : Result := respond s.acc64 s

end Sys2Proof.Machine
end

