-- ==== Sys2Proof/Machine/SessionController.lean ====
section
/-! DEFINITION. The Session Controller's commands and the status read (spec 42_session_controller.md). -/

namespace Sys2Proof.Machine

/-- `SINIT` (R152). ERR and the tables stay. -/
def execSinit (s : State) : Result :=
  respond 0 ((((s.setAcc32 0).setAcc64 0).setTotal 0).setEos false)

/-- The end of stream: a chunk of length 0 (R153). -/
def endStream (s : State) : Result := respond s.total (s.setEos true)

/-- A chunk of length above 0: both engines and the byte counter (R153). The order of the two updates cannot be
observed (log 7). -/
def foldChunk (data : List Byte) (s : State) : Result :=
  withValue (s.t32.update data s.acc32) fun a =>
    withValue (s.t64.update data s.acc64) fun b =>
      respond (s.total + chunkLength data)
        (((s.setAcc32 a).setAcc64 b).setTotal (s.total + chunkLength data))

/-- `SCHUNK data` (R153): every check precedes every write (R175). -/
def execSchunk (data : List Byte) (s : State) : Result :=
  requireBuilt (s.t32v && s.t64v) s
    (requireOpen s (if data.isEmpty then endStream s else foldChunk data s))

/-- `RDTOT` (R154). -/
def execRdtot (s : State) : Result := respond s.total s

/-- `RDSR` (R155): reading does not clear ERR. -/
def execRdsr (s : State) : Result := respond ((statusView s).setWidth 64) s

end Sys2Proof.Machine
end

