-- ==== Sys2Proof/Machine/TableBuilder.lean ====
section
/-! DEFINITION. The Table Builders' commands (spec 40_table_builder.md). -/

namespace Sys2Proof.Machine

/-- `BLD32` (R102). -/
def execBld32 (s : State) : Result := respond 0 (s.setTable32 (s.t32.build Config.poly32))

/-- `BLD64` (R103). -/
def execBld64 (s : State) : Result := respond 0 (s.setTable64 (s.t64.build Config.poly64))

/-- `RDT32 idx` (R104). -/
def execRdt32 (idx : Byte) (s : State) : Result :=
  requireBuilt s.t32v s (withValue (s.t32.read idx) fun v => respond (zext64 v) s)

/-- `RDT64 idx` (R105). -/
def execRdt64 (idx : Byte) (s : State) : Result :=
  requireBuilt s.t64v s (withValue (s.t64.read idx) fun v => respond v s)

end Sys2Proof.Machine
end

