-- ==== Sys2Proof/Machine/Dispatch.lean ====
section
/-! DEFINITION. The meaning of every command (spec 30_encoding.md R76). -/

namespace Sys2Proof.Machine

/-- Execute a decoded command. -/
def exec (i : Instr) (s : State) : Host.Outcome State Fault Refusal :=
  match i with
  | .bld32 => Sys2Proof.Machine.execBld32 s
  | .bld64 => Sys2Proof.Machine.execBld64 s
  | .upd32 data => Sys2Proof.Machine.execUpd32 data s
  | .upd64 data => Sys2Proof.Machine.execUpd64 data s
  | .lds32 imm => Sys2Proof.Machine.execLds32 imm s
  | .lds64 imm => Sys2Proof.Machine.execLds64 imm s
  | .rds32 => Sys2Proof.Machine.execRds32 s
  | .rds64 => Sys2Proof.Machine.execRds64 s
  | .rdt32 idx => Sys2Proof.Machine.execRdt32 idx s
  | .rdt64 idx => Sys2Proof.Machine.execRdt64 idx s
  | .sinit => Sys2Proof.Machine.execSinit s
  | .schunk data => Sys2Proof.Machine.execSchunk data s
  | .rdtot => Sys2Proof.Machine.execRdtot s
  | .rdsr => Sys2Proof.Machine.execRdsr s

end Sys2Proof.Machine
end

