-- ==== Sys2Proof/Machine/Transact.lean ====
section
/-! DEFINITION. One input of the host taken by the block: a command transaction decoded and executed
(spec 30_encoding.md R70, R75), or a reset (70_reset_and_hazards.md R200). -/

namespace Sys2Proof.Machine

/-- Decode a transaction and execute it, or refuse it with the decoder's fault (R75 (2), (4), (5)). -/
def transact (t : Transaction) (s : State) : Result :=
  match decode t with
  | .error c => raiseFault c s
  | .ok i => exec i s

/-- Take the next input. With none the block is idle and nothing changes (R182, R200; log 3). -/
def takeInput (s : State) : Result :=
  match s.inputs with
  | [] => .next s
  | .reset _ :: remaining => .next (applyReset remaining)
  | .command t :: remaining => transact t (s.setInputs remaining)

/-- The host issues this transaction before all it would issue otherwise. -/
def issueNext (t : Transaction) (s : State) : State := s.setInputs (.command t :: s.inputs)

end Sys2Proof.Machine
end

