-- ==== Sys2Proof/Machine/Step.lean ====
section
/-! DEFINITION. One step of the machine. There is no program counter (spec 10_state.md R33): the next command is the
next one the host issues. -/

namespace Sys2Proof.Machine

/-- One step: take the host's next input. -/
def step (s : State) : Host.Outcome State Fault Refusal := takeInput s

/-- The state in which the host's very next command is this word of spec/opcode_table.json (log 8). -/
def State.withFetchWord (s : State) (nbits w : Nat) : State := issueNext (tableTransaction nbits w) s

end Sys2Proof.Machine
end

