-- ==== Sys2Proof/Safety.lean ====
section
/-! DEFINITION. What claims speak of: the invariant of the block, runs of several steps, good runs and complete
sessions (spec 70_reset_and_hazards.md R212). -/

namespace Sys2Proof.Machine

/-- The code of the first response that is no OK, 0 if there is none: what ERR holds (10_state.md R29). -/
def firstFault (rs : List Response) : BitVec 4 :=
  match rs with
  | [] => 0#4
  | r :: rest => if r.status = 0#4 then firstFault rest else r.status

/-- What every reachable state satisfies. -/
structure Inv (s : State) : Prop where
  /-- T32 is in canonical form. -/
  wf32 : s.t32.wf = true
  /-- T64 is in canonical form. -/
  wf64 : s.t64.wf = true
  /-- A built T32 holds `build_table_32(POLY32)` (R22, R23). -/
  built32 : s.t32v = true → ∀ i, s.t32.read i = some (tableEntry Config.poly32 i)
  /-- A built T64 holds `build_table_64(POLY64)`. -/
  built64 : s.t64v = true → ∀ i, s.t64.read i = some (tableEntry Config.poly64 i)
  /-- No entry of an unbuilt T32 has a value (R25, R202). -/
  unbuilt32 : s.t32v = false → ∀ i, s.t32.read i = none
  /-- No entry of an unbuilt T64 has a value. -/
  unbuilt64 : s.t64v = false → ∀ i, s.t64.read i = none
  /-- The stream ended only in a session whose tables were both built (60_exceptions.md R173). -/
  ended : s.eos = true → s.t32v = true ∧ s.t64v = true
  /-- ERR is the code of the first fault since reset (R29). -/
  firstErr : s.err = firstFault s.responses
  /-- No status above 4 was ever answered (R171), and a fault answered `res` = 0 (R80). -/
  answers : ∀ r ∈ s.responses, r.status ≤ 4#4 ∧ (r.status ≠ 0#4 → r.res = 0)

/-- `k` steps, stopping at the first stop. -/
def run (k : Nat) (s : State) : Host.Outcome State Fault Refusal :=
  match k with
  | 0 => .next s
  | n + 1 =>
    match step s with
    | .next t => run n t
    | .fault r => .fault r
    | .refused r => .refused r

/-- The block right after reset, with the host about to issue these inputs. -/
def startWith (ins : List HostInput) : State := State.reset.setInputs ins

/-- A good run so far (R212): ERR = 0 and every response had status 0. -/
def good (s : State) : Bool := s.err == 0#4 && s.responses.all (fun r => r.status == 0#4)

/-- A complete session: good, and its last chunk was the end of stream (R212). -/
def completeSession (s : State) : Bool := good s && s.eos

end Sys2Proof.Machine
end

