-- ==== Sys2Proof/Certificates/Slice0/Obligations.lean ====
section
/-! DEFINITION. The statements about the model, each from the spec's numbered rules, and the few words they share. The
states they name are written out field by field, not by the model's own operations, so that an equation
`... = .next { s with ... }` also says the whole frame: every field not named is unchanged. -/

namespace Sys2Proof.Statements

open Sys2Proof.Machine

/-- The state `s` when the host is about to issue the command word `op ‖ arg` with `data`, and then `rest`. -/
def issued (op : BitVec 8) (arg : Word64) (data : List Byte) (rest : List HostInput) (s : State) : State :=
  { s with inputs := .command ⟨op ++ arg, data⟩ :: rest }

/-- What is left of `s` once the block has refused a command with `code` (60_exceptions.md R174): only ERR, if it was
0, has changed, and there is one more response. -/
def refused (code : BitVec 4) (rest : List HostInput) (s : State) : State :=
  { s with
    inputs := rest
    err := if s.err = 0#4 then code else s.err
    responses := s.responses ++ [⟨code, 0#64⟩] }

/-- `s` after a command that changed nothing and answered `v` with status 0 (30_encoding.md R79). -/
def answered (v : Word64) (rest : List HostInput) (s : State) : State :=
  { s with inputs := rest, responses := s.responses ++ [⟨0#4, v⟩] }

/-- The table memory holds exactly the 256 values of `T`. -/
def Holds {w : Nat} (m : Memory w) (T : Byte → BitVec w) : Prop := ∀ i, m.read i = some (T i)

/-- `op` by its major code `op[7:4]` and minor code `op[3:0]` (R77 (a)). -/
abbrev illegalOp (op : BitVec 8) : Prop :=
  op.toNat / 16 = 0 ∨ 7 ≤ op.toNat / 16 ∨
  (1 ≤ op.toNat / 16 ∧ op.toNat / 16 ≤ 5 ∧ op.toNat % 16 / 2 ≠ 0) ∨
  (op.toNat / 16 = 6 ∧ 4 ≤ op.toNat % 16)

/-- A reserved bit of `arg` is 1 (R72, R77 (b)): all of `arg` in format N, bits 63:32 in S32, bits 63:8 in I. -/
def reservedBitSet (op : BitVec 8) (arg : Word64) : Prop :=
  (op ∈ [0x10#8, 0x11#8, 0x40#8, 0x41#8, 0x60#8, 0x62#8, 0x63#8] ∧ arg ≠ 0#64) ∨
  (op = 0x30#8 ∧ 2 ^ 32 ≤ arg.toNat) ∨
  (op ∈ [0x50#8, 0x51#8] ∧ 2 ^ 8 ≤ arg.toNat)

/-- The word `op ‖ arg` is illegal (R77). -/
def illegalWord (op : BitVec 8) (arg : Word64) : Prop := illegalOp op ∨ reservedBitSet op arg

/-- `data` does not fit the format (R81): exactly `len` bytes in format L, none in any other. -/
def dataMisfit (op : BitVec 8) (arg : Word64) (data : List Byte) : Prop :=
  if op ∈ [0x20#8, 0x21#8, 0x61#8] then data.length ≠ arg.toNat else data ≠ []

/-- The commands that may write ACC32 (10_state.md R37). -/
def mayWriteAcc32 (i : Instr) : Prop :=
  (∃ d, i = .upd32 d) ∨ (∃ v, i = .lds32 v) ∨ i = .sinit ∨ (∃ d, i = .schunk d)

/-- The commands that may write ACC64 (R37). -/
def mayWriteAcc64 (i : Instr) : Prop :=
  (∃ d, i = .upd64 d) ∨ (∃ v, i = .lds64 v) ∨ i = .sinit ∨ (∃ d, i = .schunk d)

/-- The commands that may write TOTAL or EOS (R37). -/
def mayWriteSession (i : Instr) : Prop := i = .sinit ∨ (∃ d, i = .schunk d)

/-- The bytes of the ASCII string 123456789 (41_checksum_engine.md R134). -/
def digits : List Byte := [0x31#8, 0x32#8, 0x33#8, 0x34#8, 0x35#8, 0x36#8, 0x37#8, 0x38#8, 0x39#8]

/-- The value of `r` before round 0 and after each of the next `n` rounds (40_table_builder.md R111). -/
def trace {w : Nat} (p : BitVec w) (n : Nat) (r : BitVec w) : List (BitVec w) :=
  match n with
  | 0 => [r]
  | k + 1 => r :: trace p k (roundW p r)

/-- The command sequence of R157: SINIT, one SCHUNK per chunk, and the empty SCHUNK. -/
def sessionInputs (chunks : List (List Byte)) : List HostInput :=
  .command (encode .sinit) ::
    (chunks.map (fun c => .command (encode (.schunk c))) ++ [.command (encode (.schunk []))])

/-- The same with the two engines' own commands in place of SCHUNK (R157, last sentence). -/
def engineInputs (chunks : List (List Byte)) : List HostInput :=
  .command (encode .sinit) ::
    chunks.flatMap (fun c => [.command (encode (.upd32 c)), .command (encode (.upd64 c))])

end Sys2Proof.Statements

section Obligations

open Sys2Proof Sys2Proof.Machine Sys2Proof.Statements

/-! ## Encoding -/

/-- Decode and encode agree: no bit of an encoding is dropped, for any command at any operand value. -/
def Obligations.DecodeEncodedCommand : Prop :=
  ∀ i : Instr, wellFormed i = true → decode (encode i) = .ok i

/-- The other direction: every transaction the decoder accepts is the encoding of the one command it answers. -/
def Obligations.EncodeDecodedTransaction : Prop :=
  ∀ (t : Transaction) (i : Instr), decode t = .ok i → encode i = t ∧ wellFormed i = true

/-- R77, in the spec's terms of major and minor codes and reserved bits, not of the match/mask rows the decoder uses. -/
def Obligations.IllegalCommandExactly : Prop :=
  (∀ (op : BitVec 8) (arg : Word64) (data : List Byte),
    decode ⟨op ++ arg, data⟩ = .error .illegalCommand ↔ illegalWord op arg) ∧
  (∀ op : BitVec 8, illegalOp op ↔
    op ∉ [0x10#8, 0x11#8, 0x20#8, 0x21#8, 0x30#8, 0x31#8, 0x40#8, 0x41#8, 0x50#8, 0x51#8, 0x60#8, 0x61#8, 0x62#8,
      0x63#8]) ∧
  (∀ (op : BitVec 8) (arg : Word64) (data : List Byte) (rest : List HostInput) (s : State), illegalWord op arg →
    step (issued op arg data rest s) = .next (refused 1#4 rest s)) ∧
  illegalWord 0x00#8 0#64 ∧ illegalWord 0xFF#8 (BitVec.allOnes 64)

/-- R81, with the priority of R173: LengthMismatch is answered only where the word itself is legal. -/
def Obligations.LengthMismatchExactly : Prop :=
  (∀ (op : BitVec 8) (arg : Word64) (data : List Byte),
    decode ⟨op ++ arg, data⟩ = .error .lengthMismatch ↔ ¬ illegalWord op arg ∧ dataMisfit op arg data) ∧
  (∀ (op : BitVec 8) (arg : Word64) (data : List Byte) (rest : List HostInput) (s : State),
    ¬ illegalWord op arg → dataMisfit op arg data →
    step (issued op arg data rest s) = .next (refused 2#4 rest s))

/-- R75: at most one row is met by a word. -/
def Obligations.EncodingRowsUnambiguous : Prop :=
  ∀ (cw : CommandWord), ∀ r ∈ encodingTable, ∀ r' ∈ encodingTable,
    meetsRow cw r = true → meetsRow cw r' = true → r = r'

/-- Words written out from 95_test_vectors.md section 4.1, one per unit. -/
def Obligations.SampleWordsDecode : Prop :=
  decode ⟨0x11_0000000000000000#72, []⟩ = .ok .bld64 ∧
  decode ⟨0x20_0000000000000003#72, [0x61#8, 0x62#8, 0x63#8]⟩ = .ok (.upd32 [0x61#8, 0x62#8, 0x63#8]) ∧
  decode ⟨0x31_0123456789ABCDEF#72, []⟩ = .ok (.lds64 0x0123456789ABCDEF#64) ∧
  decode ⟨0x50_00000000000000C8#72, []⟩ = .ok (.rdt32 0xC8#8) ∧
  decode ⟨0x61_0000000000000002#72, [0x00#8, 0xFF#8]⟩ = .ok (.schunk [0x00#8, 0xFF#8]) ∧
  decode ⟨0x63_0000000000000000#72, []⟩ = .ok .rdsr

/-! ## The step -/

/-- A step runs the decoded command; around it the step only takes the transaction off the host's list. -/
def Obligations.StepRunsDecodedCommand : Prop :=
  ∀ (s : State) (t : Transaction) (rest : List HostInput) (i : Instr), decode t = .ok i →
    step { s with inputs := .command t :: rest } = exec i { s with inputs := rest }

/-- R79, R174, R175 over every command in every state: exactly one response, and a response other than OK means that
nothing but the ERR latch has changed. -/
def Obligations.CommandAnswersOnceAndRefusesPrecisely : Prop :=
  ∀ (s s' : State) (t : Transaction) (rest : List HostInput), s.inputs = .command t :: rest → step s = .next s' →
    ∃ r : Response, s'.responses = s.responses ++ [r] ∧ s'.inputs = rest ∧ r.status ≤ 4#4 ∧
      (r.status ≠ 0#4 → s' = refused r.status rest s ∧ r.res = 0#64)

/-- The model's choices around a reset and an idle step: with no command and no reset nothing changes (log 3, from R200
and R182); a reset leaves the reset state, its response log emptied (log 2), and the host's later inputs stay (log 6). -/
def Obligations.IdleAndResetStepsExactly : Prop :=
  (∀ s : State, s.inputs = [] → step s = .next s) ∧
  (∀ (s : State) (abandoned : Option Transaction) (rest : List HostInput),
    step { s with inputs := .reset abandoned :: rest } = .next { State.reset with inputs := rest })

/-- R203: reset between commands or during any command: the command is abandoned without a response and every piece of
the spec's state (R20) is at its value of R201, whatever it was. -/
def Obligations.ResetEventGivesResetState : Prop :=
  ∀ (s : State) (abandoned : Option Transaction) (rest : List HostInput),
    ∃ s' : State, step { s with inputs := .reset abandoned :: rest } = .next s' ∧
      s'.t32v = false ∧ s'.t64v = false ∧ (∀ i, s'.t32.read i = none) ∧ (∀ i, s'.t64.read i = none) ∧
      s'.acc32 = 0#32 ∧ s'.acc64 = 0#64 ∧ s'.total = 0#64 ∧ s'.eos = false ∧ s'.err = 0#4 ∧
      (∀ r ∈ s'.responses, r ∈ s.responses)

/-- R201: the values the spec gives for reset. -/
def Obligations.ResetStateValues : Prop :=
  State.reset.t32v = false ∧ State.reset.t64v = false ∧
  (∀ i, State.reset.t32.read i = none) ∧ (∀ i, State.reset.t64.read i = none) ∧
  State.reset.acc32 = 0x00000000#32 ∧ State.reset.acc64 = 0x0000000000000000#64 ∧ State.reset.total = 0#64 ∧
  State.reset.eos = false ∧ State.reset.err = 0#4 ∧ statusView State.reset = 0x00#8 ∧
  Config.poly32 = 0xEDB88320#32 ∧ Config.poly64 = 0xC96C5795D7870F42#64

/-! ## What each command does: its completion, its result and its frame -/

/-- BLD32 and BLD64 complete in every state and leave the whole table of their polynomial, whatever it held. -/
def Obligations.BuildCommandsComplete : Prop :=
  ∀ s : State,
    (∃ m : Memory 32, Holds m (tableEntry Config.poly32) ∧ (s.t32.wf = true → m.wf = true) ∧
      exec .bld32 s = .next { s with t32 := m, t32v := true, responses := s.responses ++ [⟨0#4, 0#64⟩] }) ∧
    (∃ m : Memory 64, Holds m (tableEntry Config.poly64) ∧ (s.t64.wf = true → m.wf = true) ∧
      exec .bld64 s = .next { s with t64 := m, t64v := true, responses := s.responses ++ [⟨0#4, 0#64⟩] })

/-- RDT32 and RDT64 complete where their table is built and the entry has a value; they change no state. -/
def Obligations.ReadTableCommandsComplete : Prop :=
  ∀ (s : State) (idx : Byte),
    (∀ v, s.t32v = true → s.t32.read idx = some v →
      exec (.rdt32 idx) s = .next (answered (BitVec.ofNat 64 v.toNat) s.inputs s)) ∧
    (∀ v, s.t64v = true → s.t64.read idx = some v →
      exec (.rdt64 idx) s = .next (answered v s.inputs s))

/-- UPD32 and UPD64 complete on every chunk, the empty one too, where their table is built, and ignore EOS. -/
def Obligations.UpdateCommandsComplete : Prop :=
  ∀ (s : State) (data : List Byte),
    (∀ T, s.t32v = true → Holds s.t32 T →
      exec (.upd32 data) s = .next { s with
        acc32 := updateW T data s.acc32
        responses := s.responses ++ [⟨0#4, BitVec.ofNat 64 (updateW T data s.acc32).toNat⟩] }) ∧
    (∀ T, s.t64v = true → Holds s.t64 T →
      exec (.upd64 data) s = .next { s with
        acc64 := updateW T data s.acc64
        responses := s.responses ++ [⟨0#4, updateW T data s.acc64⟩] })

/-- LDS32 and LDS64 complete in every state with every value. -/
def Obligations.LoadStateCommandsComplete : Prop :=
  ∀ (s : State) (a : Word32) (b : Word64),
    exec (.lds32 a) s = .next { s with acc32 := a, responses := s.responses ++ [⟨0#4, 0#64⟩] } ∧
    exec (.lds64 b) s = .next { s with acc64 := b, responses := s.responses ++ [⟨0#4, 0#64⟩] }

/-- RDS32 and RDS64 complete in every state, answer the visible value uncomplemented and change no state. -/
def Obligations.ReadStateCommandsComplete : Prop :=
  ∀ s : State,
    exec .rds32 s = .next (answered (BitVec.ofNat 64 s.acc32.toNat) s.inputs s) ∧
    exec .rds64 s = .next (answered s.acc64 s.inputs s)

/-- SINIT completes in every state; ERR and the tables stay. -/
def Obligations.SessionInitCompletes : Prop :=
  ∀ s : State, exec .sinit s = .next { s with
    acc32 := 0#32, acc64 := 0#64, total := 0#64, eos := false, responses := s.responses ++ [⟨0#4, 0#64⟩] }

/-- SCHUNK completes in an open session with both tables built: the end of stream for no bytes, both engines and the
counter for any other chunk. R153 speaks of chunks whose length fits the 64-bit `len`; that the TOTAL and response
clauses also say the length wraps for a chunk of `2^64` bytes or more, an ill-formed command no transaction decodes to,
is the model's choice (DESIGN CHOICE, log 5). -/
def Obligations.ChunkCommandCompletes : Prop :=
  ∀ (s : State) (data : List Byte) (T : Byte → Word32) (U : Byte → Word64),
    s.t32v = true → s.t64v = true → s.eos = false → Holds s.t32 T → Holds s.t64 U →
    (data = [] → exec (.schunk data) s = .next { s with
      eos := true, responses := s.responses ++ [⟨0#4, s.total⟩] }) ∧
    (data ≠ [] → exec (.schunk data) s = .next { s with
      acc32 := updateW T data s.acc32
      acc64 := updateW U data s.acc64
      total := s.total + BitVec.ofNat 64 data.length
      responses := s.responses ++ [⟨0#4, s.total + BitVec.ofNat 64 data.length⟩] })

/-- RDTOT and RDSR complete in every state and change no state. -/
def Obligations.ReadTotalAndStatusComplete : Prop :=
  ∀ s : State,
    exec .rdtot s = .next (answered s.total s.inputs s) ∧
    exec .rdsr s = .next (answered (BitVec.ofNat 64
      (16 * s.err.toNat + 4 * s.eos.toNat + 2 * s.t64v.toNat + s.t32v.toNat)) s.inputs s)

/-- TableNotBuilt: which commands raise it and when (R171), whatever the chunk or index, and with what state. -/
def Obligations.UnbuiltTableRefused : Prop :=
  ∀ (s : State) (data : List Byte) (idx : Byte),
    (s.t32v = false → exec (.upd32 data) s = .next (refused 3#4 s.inputs s) ∧
      exec (.rdt32 idx) s = .next (refused 3#4 s.inputs s)) ∧
    (s.t64v = false → exec (.upd64 data) s = .next (refused 3#4 s.inputs s) ∧
      exec (.rdt64 idx) s = .next (refused 3#4 s.inputs s)) ∧
    (s.t32v = false ∨ s.t64v = false → exec (.schunk data) s = .next (refused 3#4 s.inputs s))

/-! ## Each command from its command word to its effect, with every fault and its priority -/

/-- R102, R103. -/
def Obligations.BuildCommandWords : Prop :=
  ∀ (s : State) (rest : List HostInput) (arg : Word64) (data : List Byte),
    (∃ m : Memory 32, Holds m (tableEntry Config.poly32) ∧
      (s.t32.wf = true → Holds s.t32 (tableEntry Config.poly32) → m = s.t32) ∧
      step (issued 0x10#8 arg data rest s) =
        if arg ≠ 0#64 then .next (refused 1#4 rest s)
        else if data ≠ [] then .next (refused 2#4 rest s)
        else .next { s with
          t32 := m, t32v := true, inputs := rest, responses := s.responses ++ [⟨0#4, 0#64⟩] }) ∧
    (∃ m : Memory 64, Holds m (tableEntry Config.poly64) ∧
      (s.t64.wf = true → Holds s.t64 (tableEntry Config.poly64) → m = s.t64) ∧
      step (issued 0x11#8 arg data rest s) =
        if arg ≠ 0#64 then .next (refused 1#4 rest s)
        else if data ≠ [] then .next (refused 2#4 rest s)
        else .next { s with
          t64 := m, t64v := true, inputs := rest, responses := s.responses ++ [⟨0#4, 0#64⟩] })

/-- R104, R105. -/
def Obligations.ReadTableCommandWords : Prop :=
  ∀ (s : State) (rest : List HostInput) (arg : Word64) (data : List Byte),
    (∀ T, (s.t32v = true → Holds s.t32 T) →
      step (issued 0x50#8 arg data rest s) =
        if 2 ^ 8 ≤ arg.toNat then .next (refused 1#4 rest s)
        else if data ≠ [] then .next (refused 2#4 rest s)
        else if s.t32v = false then .next (refused 3#4 rest s)
        else .next (answered (BitVec.ofNat 64 (T (BitVec.ofNat 8 arg.toNat)).toNat) rest s)) ∧
    (∀ U, (s.t64v = true → Holds s.t64 U) →
      step (issued 0x51#8 arg data rest s) =
        if 2 ^ 8 ≤ arg.toNat then .next (refused 1#4 rest s)
        else if data ≠ [] then .next (refused 2#4 rest s)
        else if s.t64v = false then .next (refused 3#4 rest s)
        else .next (answered (U (BitVec.ofNat 8 arg.toNat)) rest s))

/-- R122, R123. -/
def Obligations.UpdateCommandWords : Prop :=
  ∀ (s : State) (rest : List HostInput) (len : Word64) (data : List Byte),
    (∀ T, (s.t32v = true → Holds s.t32 T) →
      step (issued 0x20#8 len data rest s) =
        if data.length ≠ len.toNat then .next (refused 2#4 rest s)
        else if s.t32v = false then .next (refused 3#4 rest s)
        else .next { s with
          acc32 := updateW T data s.acc32
          inputs := rest
          responses := s.responses ++ [⟨0#4, BitVec.ofNat 64 (updateW T data s.acc32).toNat⟩] }) ∧
    (∀ U, (s.t64v = true → Holds s.t64 U) →
      step (issued 0x21#8 len data rest s) =
        if data.length ≠ len.toNat then .next (refused 2#4 rest s)
        else if s.t64v = false then .next (refused 3#4 rest s)
        else .next { s with
          acc64 := updateW U data s.acc64
          inputs := rest
          responses := s.responses ++ [⟨0#4, updateW U data s.acc64⟩] })

/-- R124, R125. -/
def Obligations.LoadStateCommandWords : Prop :=
  ∀ (s : State) (rest : List HostInput) (arg : Word64) (data : List Byte),
    (step (issued 0x30#8 arg data rest s) =
      if 2 ^ 32 ≤ arg.toNat then .next (refused 1#4 rest s)
      else if data ≠ [] then .next (refused 2#4 rest s)
      else .next { s with
        acc32 := BitVec.ofNat 32 arg.toNat, inputs := rest, responses := s.responses ++ [⟨0#4, 0#64⟩] }) ∧
    (step (issued 0x31#8 arg data rest s) =
      if data ≠ [] then .next (refused 2#4 rest s)
      else .next { s with acc64 := arg, inputs := rest, responses := s.responses ++ [⟨0#4, 0#64⟩] })

/-- R126, R127. -/
def Obligations.ReadStateCommandWords : Prop :=
  ∀ (s : State) (rest : List HostInput) (arg : Word64) (data : List Byte),
    (step (issued 0x40#8 arg data rest s) =
      if arg ≠ 0#64 then .next (refused 1#4 rest s)
      else if data ≠ [] then .next (refused 2#4 rest s)
      else .next (answered (BitVec.ofNat 64 s.acc32.toNat) rest s)) ∧
    (step (issued 0x41#8 arg data rest s) =
      if arg ≠ 0#64 then .next (refused 1#4 rest s)
      else if data ≠ [] then .next (refused 2#4 rest s)
      else .next (answered s.acc64 rest s))

/-- R152. -/
def Obligations.SessionInitCommandWord : Prop :=
  ∀ (s : State) (rest : List HostInput) (arg : Word64) (data : List Byte),
    step (issued 0x60#8 arg data rest s) =
      if arg ≠ 0#64 then .next (refused 1#4 rest s)
      else if data ≠ [] then .next (refused 2#4 rest s)
      else .next { s with
        acc32 := 0#32, acc64 := 0#64, total := 0#64, eos := false, inputs := rest
        responses := s.responses ++ [⟨0#4, 0#64⟩] }

/-- R153, its faults in the order of R173. -/
def Obligations.ChunkCommandWord : Prop :=
  ∀ (s : State) (rest : List HostInput) (len : Word64) (data : List Byte) (T : Byte → Word32) (U : Byte → Word64),
    (s.t32v = true → Holds s.t32 T) → (s.t64v = true → Holds s.t64 U) →
    step (issued 0x61#8 len data rest s) =
      if data.length ≠ len.toNat then .next (refused 2#4 rest s)
      else if s.t32v = false ∨ s.t64v = false then .next (refused 3#4 rest s)
      else if s.eos = true then .next (refused 4#4 rest s)
      else if len = 0#64 then .next { s with
        eos := true, inputs := rest, responses := s.responses ++ [⟨0#4, s.total⟩] }
      else .next { s with
        acc32 := updateW T data s.acc32
        acc64 := updateW U data s.acc64
        total := s.total + len
        inputs := rest
        responses := s.responses ++ [⟨0#4, s.total + len⟩] }

/-- R154. -/
def Obligations.ReadTotalCommandWord : Prop :=
  ∀ (s : State) (rest : List HostInput) (arg : Word64) (data : List Byte),
    step (issued 0x62#8 arg data rest s) =
      if arg ≠ 0#64 then .next (refused 1#4 rest s)
      else if data ≠ [] then .next (refused 2#4 rest s)
      else .next (answered s.total rest s)

/-- R155. -/
def Obligations.ReadStatusCommandWord : Prop :=
  ∀ (s : State) (rest : List HostInput) (arg : Word64) (data : List Byte),
    step (issued 0x63#8 arg data rest s) =
      if arg ≠ 0#64 then .next (refused 1#4 rest s)
      else if data ≠ [] then .next (refused 2#4 rest s)
      else .next (answered (BitVec.ofNat 64
        (16 * s.err.toNat + 4 * s.eos.toNat + 2 * s.t64v.toNat + s.t32v.toNat)) rest s)

/-! ## The two functions -/

/-- R101: the round, and its equivalent form with a mask. -/
def Obligations.RoundShiftsAndXors : Prop :=
  ∀ (w : Nat) (p r : BitVec w),
    (r.getLsbD 0 = true → roundW p r = (r >>> 1) ^^^ p) ∧
    (r.getLsbD 0 = false → roundW p r = r >>> 1) ∧
    roundW p r = (r >>> 1) ^^^ (p &&& (if r.getLsbD 0 then BitVec.allOnes w else 0#w))

/-- R100: exactly 8 rounds from the zero extension of the index. -/
def Obligations.TableEntryIsEightRounds : Prop :=
  ∀ (w : Nat) (p : BitVec w) (i : Byte),
    tableEntry p i =
      roundW p (roundW p (roundW p (roundW p (roundW p (roundW p (roundW p (roundW p (i.setWidth w))))))))

/-- R107, all four parts, for any polynomial; and R106 (b), the entry of the zero byte. -/
def Obligations.TableStructure : Prop :=
  (∀ (p : Word32) (q : Word64),
    tableEntry p 0#8 = 0#32 ∧ tableEntry q 0#8 = 0#64 ∧
    tableEntry p 128#8 = p ∧ tableEntry q 128#8 = q ∧
    (∀ k, k ≤ 7 → tableEntry p (BitVec.ofNat 8 (2 ^ k)) = roundsW p (7 - k) p) ∧
    (∀ k, k ≤ 7 → tableEntry q (BitVec.ofNat 8 (2 ^ k)) = roundsW q (7 - k) q)) ∧
  (∀ (w : Nat) (p a b : BitVec w), roundW p (a ^^^ b) = roundW p a ^^^ roundW p b) ∧
  (∀ (w : Nat) (p : BitVec w) (i j : Byte), tableEntry p (i ^^^ j) = tableEntry p i ^^^ tableEntry p j) ∧
  (∀ (w : Nat) (p : BitVec w),
    (List.range 256).foldl (fun x i => x ^^^ tableEntry p (BitVec.ofNat 8 i)) 0#w = 0#w)

/-- R111, the four traces round by round. -/
def Obligations.RoundTraces : Prop :=
  trace Config.poly32 8 0x00000001#32 =
    [0x00000001#32, 0xEDB88320#32, 0x76DC4190#32, 0x3B6E20C8#32, 0x1DB71064#32, 0x0EDB8832#32, 0x076DC419#32,
     0xEE0E612C#32, 0x77073096#32] ∧
  trace Config.poly32 8 0x000000FF#32 =
    [0x000000FF#32, 0xEDB8835F#32, 0x9B64C28F#32, 0xA00AE267#32, 0xBDBDF213#32, 0xB3667A29#32, 0xB40BBE34#32,
     0x5A05DF1A#32, 0x2D02EF8D#32] ∧
  trace Config.poly64 8 0x0000000000000001#64 =
    [0x0000000000000001#64, 0xC96C5795D7870F42#64, 0x64B62BCAEBC387A1#64, 0xFB374270A266CC92#64,
     0x7D9BA13851336649#64, 0xF7A18709FF1EBC66#64, 0x7BD0C384FF8F5E33#64, 0xF4843657A840A05B#64,
     0xB32E4CBE03A75F6F#64] ∧
  trace Config.poly64 8 0x00000000000000FF#64 =
    [0x00000000000000FF#64, 0xC96C5795D7870F3D#64, 0xADDA7C5F3C4488DC#64, 0x56ED3E2F9E22446E#64,
     0x2B769F17CF112237#64, 0xDCD7181E300F9E59#64, 0xA707DB9ACF80C06E#64, 0x5383EDCD67C06037#64,
     0xE0ADA17364673F59#64] ∧
  tableEntry Config.poly32 1#8 = 0x77073096#32 ∧ tableEntry Config.poly32 255#8 = 0x2D02EF8D#32 ∧
  tableEntry Config.poly64 1#8 = 0xB32E4CBE03A75F6F#64 ∧ tableEntry Config.poly64 255#8 = 0xE0ADA17364673F59#64

/-- R120, R121: complement, one table entry and one shift by 8 per byte in order, complement. -/
def Obligations.UpdateFoldsBytesInOrder : Prop :=
  ∀ (w : Nat) (t : Byte → BitVec w) (s : BitVec w) (b : Byte) (bytes : List Byte),
    stepW t s b = t (b ^^^ BitVec.ofNat 8 s.toNat) ^^^ (s >>> 8) ∧
    updateW t [] s = ~~~ (~~~ s) ∧
    updateW t (b :: bytes) s = updateW t bytes (~~~ (stepW t (~~~ s) b))

/-- R129: the empty sequence is the identity, also as a second chunk. -/
def Obligations.EmptyUpdateIsIdentity : Prop :=
  ∀ (w : Nat) (t : Byte → BitVec w) (bytes : List Byte) (state : BitVec w),
    updateW t [] state = state ∧ updateW t [] (updateW t bytes state) = updateW t bytes state

/-- R130: the result does not depend on the cut, for two chunks and for any partition. -/
def Obligations.ChunkingIndependence : Prop :=
  ∀ (w : Nat) (t : Byte → BitVec w) (state : BitVec w),
    (∀ A B : List Byte, updateW t B (updateW t A state) = updateW t (A ++ B) state) ∧
    (∀ chunks : List (List Byte),
      chunks.foldl (fun st c => updateW t c st) state = updateW t chunks.flatten state)

/-- The table-driven engine computes the bit-serial CRC: folding a byte through `build_table_W(P)` is XORing the byte
into the low bits of the register and shifting it out bit by bit, 8 rounds of R101 on the whole register. -/
def Obligations.TableDrivenEqualsBitSerial : Prop :=
  ∀ (w : Nat) (p : BitVec w) (bytes : List Byte) (state : BitVec w),
    updateW (tableEntry p) bytes state =
      ~~~ (bytes.foldl (fun s b => roundsW p 8 (s ^^^ b.setWidth w)) (~~~ state))

/-- R134: the known results. -/
def Obligations.KnownResults : Prop :=
  updateW (tableEntry Config.poly32) [] 0#32 = 0x00000000#32 ∧
  updateW (tableEntry Config.poly64) [] 0#64 = 0x0000000000000000#64 ∧
  updateW (tableEntry Config.poly32) digits 0#32 = 0xCBF43926#32 ∧
  updateW (tableEntry Config.poly64) digits 0#64 = 0x995DC9BBDF1939FA#64

/-! ## Table memory -/

/-- R51, R52: a write replaces its entry and leaves the other 255 unchanged; the next read returns the value. -/
def Obligations.TableWriteReplacesOneEntry : Prop :=
  ∀ (w : Nat) (m : Memory w) (i j : Byte) (v : BitVec w),
    (m.write i v).read i = some v ∧ (j ≠ i → (m.write i v).read j = m.read j) ∧
    (m.wf = true → (m.write i v).wf = true)

/-! ## Invariants and whole-machine rules -/

/-- Every step keeps the invariant: canonical tables, built tables with the right contents, unbuilt ones with none, EOS
only with both tables built, ERR the first fault since reset, no status above 4. -/
def Obligations.StepKeepsInvariant : Prop :=
  ∀ s s' : State, Inv s → step s = .next s' → Inv s'

/-- The reset state satisfies the invariant. -/
def Obligations.ResetSatisfiesInvariant : Prop := Inv State.reset

/-- From every state that satisfies the invariant a step answers a next state: no command, legal or not, and no reset
ever stops the block (R174 (4), R210). -/
def Obligations.InvariantStateNeverStops : Prop :=
  ∀ s : State, Inv s → ∃ s', step s = .next s'

/-- The invariant holds along every run from reset, whatever the host issues, and no run stops. -/
def Obligations.RunsFromResetNeverStop : Prop :=
  ∀ (ins : List HostInput) (k : Nat), ∃ s', run k (startWith ins) = .next s' ∧ Inv s'

/-- R183: the absence of any fault since reset can be read from ERR alone. -/
def Obligations.GoodRunReadFromErr : Prop :=
  ∀ s : State, Inv s → (good s = true ↔ s.err = 0#4)

/-- The writes of the access matrix (R37): who writes what, over every command in every state. No command touches the
host's list. -/
def Obligations.AccessMatrixWrites : Prop :=
  ∀ (i : Instr) (s s' : State), exec i s = .next s' →
    (i ≠ .bld32 → s'.t32v = s.t32v ∧ ∀ j, s'.t32.read j = s.t32.read j) ∧
    (i ≠ .bld64 → s'.t64v = s.t64v ∧ ∀ j, s'.t64.read j = s.t64.read j) ∧
    (¬ mayWriteAcc32 i → s'.acc32 = s.acc32) ∧
    (¬ mayWriteAcc64 i → s'.acc64 = s.acc64) ∧
    (¬ mayWriteSession i → s'.total = s.total ∧ s'.eos = s.eos) ∧
    s'.inputs = s.inputs

/-- R29: ERR takes the first fault's code and keeps it; no command clears it and a command that executes leaves it. -/
def Obligations.ErrKeepsFirstFault : Prop :=
  ∀ (s s' : State) (t : Transaction) (rest : List HostInput), s.inputs = .command t :: rest → step s = .next s' →
    (s.err ≠ 0#4 → s'.err = s.err) ∧
    (s.err = 0#4 → ∃ r, s'.responses = s.responses ++ [r] ∧ s'.err = r.status)

/-- R30: the layout of STATUS. -/
def Obligations.StatusLayout : Prop :=
  ∀ s : State,
    (statusView s).getLsbD 0 = s.t32v ∧ (statusView s).getLsbD 1 = s.t64v ∧ (statusView s).getLsbD 2 = s.eos ∧
    (statusView s).getLsbD 3 = false ∧ (statusView s).extractLsb' 4 4 = s.err

/-- R23 (c), R25: once a table is built, no step but a reset changes one of its entries or clears its flag. -/
def Obligations.BuiltTablesNeverChange : Prop :=
  ∀ s s' : State, Inv s → (∀ a rest, s.inputs ≠ .reset a :: rest) → step s = .next s' →
    (s.t32v = true → s'.t32 = s.t32 ∧ s'.t32v = true) ∧ (s.t64v = true → s'.t64 = s.t64 ∧ s'.t64v = true)

/-- R158: once EOS is 1 every SCHUNK, of any length, is refused with SessionEnded and keeps ACC32, ACC64 and TOTAL, and
no command but SINIT clears EOS. -/
def Obligations.EndOfStreamIsFinal : Prop :=
  (∀ (s : State) (data : List Byte), Inv s → s.eos = true →
    exec (.schunk data) s = .next (refused 4#4 s.inputs s)) ∧
  (∀ (i : Instr) (s s' : State), s.eos = true → i ≠ .sinit → exec i s = .next s' → s'.eos = true) ∧
  (∀ s s' : State, s.eos = true → exec .sinit s = .next s' → s'.eos = false)

/-- What TOTAL counts, from R27. For chunks below `2^64` bytes the second clause is R27's; that it also holds of a
longer chunk, an ill-formed command no transaction decodes to, is the model's choice (DESIGN CHOICE, log 5). -/
def Obligations.TotalCountsAcceptedChunks : Prop :=
  ∀ (i : Instr) (s s' : State), exec i s = .next s' →
    (i = .sinit → s'.total = 0#64) ∧
    (∀ d, i = .schunk d → s'.total =
      if s.t32v = true ∧ s.t64v = true ∧ s.eos = false then s.total + BitVec.ofNat 64 d.length else s.total) ∧
    (∀ d, i = .schunk d → s.total.toNat + d.length < 2 ^ 64 → s.total.toNat ≤ s'.total.toNat) ∧
    (¬ mayWriteSession i → s'.total = s.total) ∧
    (i = .rdtot → s'.responses = s.responses ++ [⟨0#4, s.total⟩])

/-- R24, R37: what the 32-bit side holds after a command does not depend on the 64-bit side, nor the other way round;
only whether SCHUNK is accepted looks at both valid flags and EOS. -/
def Obligations.WidthsDoNotInterfere : Prop :=
  (∀ (i : Instr) (s₁ s₂ a b : State), s₁.t32 = s₂.t32 → s₁.t32v = s₂.t32v → s₁.acc32 = s₂.acc32 →
    (∀ d, i = .schunk d → s₁.t64v = s₂.t64v ∧ s₁.eos = s₂.eos) →
    exec i s₁ = .next a → exec i s₂ = .next b →
    a.t32 = b.t32 ∧ a.t32v = b.t32v ∧ a.acc32 = b.acc32) ∧
  (∀ (i : Instr) (s₁ s₂ a b : State), s₁.t64 = s₂.t64 → s₁.t64v = s₂.t64v → s₁.acc64 = s₂.acc64 →
    (∀ d, i = .schunk d → s₁.t32v = s₂.t32v ∧ s₁.eos = s₂.eos) →
    exec i s₁ = .next a → exec i s₂ = .next b →
    a.t64 = b.t64 ∧ a.t64v = b.t64v ∧ a.acc64 = b.acc64)

/-- R157: a session's results are the checksums and the length of the whole stream, however it is cut into non-empty
chunks; with UPD32 and UPD64 in place of SCHUNK empty chunks may also appear. -/
def Obligations.SessionResultsIndependentOfCut : Prop :=
  (∀ (s : State) (chunks : List (List Byte)), Inv s → s.t32v = true → s.t64v = true →
    (∀ c ∈ chunks, c ≠ [] ∧ c.length < 2 ^ 64) →
    ∃ s', run (chunks.length + 2) { s with inputs := sessionInputs chunks } = .next s' ∧
      s'.acc32 = updateW (tableEntry Config.poly32) chunks.flatten 0#32 ∧
      s'.acc64 = updateW (tableEntry Config.poly64) chunks.flatten 0#64 ∧
      s'.total = BitVec.ofNat 64 chunks.flatten.length ∧ s'.eos = true ∧ s'.err = s.err ∧ s'.inputs = []) ∧
  (∀ (s : State) (chunks : List (List Byte)), Inv s → s.t32v = true → s.t64v = true →
    (∀ c ∈ chunks, c.length < 2 ^ 64) →
    ∃ s', run (2 * chunks.length + 1) { s with inputs := engineInputs chunks } = .next s' ∧
      s'.acc32 = updateW (tableEntry Config.poly32) chunks.flatten 0#32 ∧
      s'.acc64 = updateW (tableEntry Config.poly64) chunks.flatten 0#64 ∧ s'.inputs = [])

end Obligations
end

