-- ==== Sys2Proof/Laws/Memory.lean ====
section
/-! SUPPORT. The laws of a table memory: read after write, the canonical form, and what the builder's loop leaves. -/

namespace Sys2Proof.Machine

variable {w : Nat}

@[simp] theorem Memory.read_nil (i : Byte) : Memory.read ([] : Memory w) i = none := rfl

theorem Memory.read_cons (k : Nat) (x : BitVec w) (rest : Memory w) (i : Byte) :
    Memory.read ((k, x) :: rest) i = if k = i.toNat then some x else Memory.read rest i := rfl

/-- Reading the entry just written gives the value written (R61 (a)). -/
@[simp] theorem Memory.read_write_same (m : Memory w) (i : Byte) (v : BitVec w) :
    (m.write i v).read i = some v := by
  induction m with
  | nil => simp [Memory.write, Memory.read_cons]
  | cons c rest ih =>
    obtain ⟨k, x⟩ := c
    by_cases h : i.toNat < k
    · simp [Memory.write, h, Memory.read_cons]
    · by_cases e : i.toNat = k
      · simp [Memory.write, e, Memory.read_cons]
      · simp [Memory.write, h, e, Memory.read_cons, Ne.symm e, ih]

/-- A write leaves every other entry alone (R51, R52). -/
theorem Memory.read_write_other (m : Memory w) {i j : Byte} (v : BitVec w) (hij : j ≠ i) :
    (m.write i v).read j = m.read j := by
  have hn : i.toNat ≠ j.toNat := fun h => hij (BitVec.eq_of_toNat_eq h.symm)
  induction m with
  | nil => simp [Memory.write, Memory.read_cons, hn]
  | cons c rest ih =>
    obtain ⟨k, x⟩ := c
    by_cases h : i.toNat < k
    · simp [Memory.write, h, Memory.read_cons, hn]
    · by_cases e : i.toNat = k
      · subst e; simp [Memory.write, Memory.read_cons, hn]
      · simp [Memory.write, h, e, Memory.read_cons, ih]

theorem Memory.risingFrom_cons (lo k : Nat) (x : BitVec w) (rest : Memory w) :
    Memory.risingFrom lo ((k, x) :: rest) = true ↔
      lo ≤ k ∧ k < Config.entries ∧ Memory.risingFrom (k + 1) rest = true := by
  simp [Memory.risingFrom, and_assoc]

theorem Memory.risingFrom_write (m : Memory w) (i : Byte) (v : BitVec w) (lo : Nat) (hlo : lo ≤ i.toNat)
    (h : Memory.risingFrom lo m = true) : Memory.risingFrom lo (m.write i v) = true := by
  have hi : i.toNat < Config.entries := i.isLt
  induction m generalizing lo with
  | nil => simp [Memory.write, Memory.risingFrom, hlo, hi]
  | cons c rest ih =>
    obtain ⟨k, x⟩ := c
    obtain ⟨h1, h2, h3⟩ := (Memory.risingFrom_cons ..).1 h
    by_cases hlt : i.toNat < k
    · simp only [Memory.write, if_pos hlt, Memory.risingFrom_cons]
      exact ⟨hlo, hi, hlt, h2, h3⟩
    · by_cases e : i.toNat = k
      · simp [Memory.write, e, Memory.risingFrom_cons, h1, h2, h3]
      · have : Memory.risingFrom (k + 1) (Memory.write rest i v) = true := ih (k + 1) (by omega) h3
        simp [Memory.write, hlt, e, Memory.risingFrom_cons, h1, h2, this]

/-- A write keeps the canonical form. -/
theorem Memory.wf_write (m : Memory w) (i : Byte) (v : BitVec w) (h : m.wf = true) : (m.write i v).wf = true :=
  Memory.risingFrom_write m i v 0 (Nat.zero_le _) h

theorem Memory.wf_fill (p : BitVec w) (n : Nat) (m : Memory w) (h : m.wf = true) : (m.fill p n).wf = true := by
  induction n generalizing m with
  | zero => exact h
  | succ k ih => exact ih _ (Memory.wf_write _ _ _ h)

/-- A build keeps the canonical form. -/
theorem Memory.wf_build (p : BitVec w) (m : Memory w) (h : m.wf = true) : (m.build p).wf = true := by
  unfold Memory.build
  exact Memory.wf_fill p _ m h

/-- The reset memory has the canonical form. -/
@[simp] theorem Memory.wf_nil : Memory.wf ([] : Memory w) = true := rfl

/-- The loop leaves the entries from `n` on alone. -/
theorem Memory.read_fill_of_le (p : BitVec w) (n : Nat) (m : Memory w) (i : Byte) (hi : n ≤ i.toNat) :
    (m.fill p n).read i = m.read i := by
  induction n generalizing m with
  | zero => rfl
  | succ k ih =>
    rw [Memory.fill, ih _ (by omega), Memory.read_write_other]
    intro e
    have := i.isLt
    rw [e, BitVec.toNat_ofNat] at hi
    omega

theorem Memory.read_fill (p : BitVec w) (n : Nat) (m : Memory w) (i : Byte) (hi : i.toNat < n) :
    (m.fill p n).read i = some (tableEntry p i) := by
  induction n generalizing m with
  | zero => omega
  | succ k ih =>
    rcases Nat.lt_or_ge i.toNat k with lt | ge
    · exact ih _ lt
    · have e : BitVec.ofNat 8 k = i := by
        rw [show k = i.toNat by omega]; simp
      rw [Memory.fill, Memory.read_fill_of_le _ _ _ _ ge, e, Memory.read_write_same]

/-- After a build every entry holds its value, whatever the memory held (R102, R103). -/
@[simp] theorem Memory.read_build (p : BitVec w) (m : Memory w) (i : Byte) :
    (m.build p).read i = some (tableEntry p i) := by
  unfold Memory.build
  exact Memory.read_fill p _ m i i.isLt

theorem Memory.read_eq_none_of_risingFrom (m : Memory w) (lo : Nat) (i : Byte) (hi : i.toNat < lo)
    (h : Memory.risingFrom lo m = true) : m.read i = none := by
  induction m generalizing lo with
  | nil => rfl
  | cons c rest ih =>
    obtain ⟨k, x⟩ := c
    obtain ⟨h1, _, h3⟩ := (Memory.risingFrom_cons ..).1 h
    rw [Memory.read_cons, if_neg (by omega)]
    exact ih (k + 1) (by omega) h3

theorem Memory.ext_risingFrom (m n : Memory w) (lo : Nat) (hm : Memory.risingFrom lo m = true)
    (hn : Memory.risingFrom lo n = true) (h : ∀ i : Byte, lo ≤ i.toNat → m.read i = n.read i) : m = n := by
  induction m generalizing n lo with
  | nil =>
    cases n with
    | nil => rfl
    | cons d rest =>
      obtain ⟨l, y⟩ := d
      obtain ⟨l1, l2, _⟩ := (Memory.risingFrom_cons ..).1 hn
      have hl : (BitVec.ofNat 8 l).toNat = l := Nat.mod_eq_of_lt l2
      simpa [Memory.read_cons, hl] using h (BitVec.ofNat 8 l) (by omega)
  | cons c rest ih =>
    obtain ⟨k, x⟩ := c
    obtain ⟨k1, k2, k3⟩ := (Memory.risingFrom_cons ..).1 hm
    have hk : (BitVec.ofNat 8 k).toNat = k := Nat.mod_eq_of_lt k2
    have atk := h (BitVec.ofNat 8 k) (by omega)
    rw [Memory.read_cons, if_pos hk.symm] at atk
    cases n with
    | nil => simp at atk
    | cons d rest' =>
      obtain ⟨l, y⟩ := d
      obtain ⟨l1, l2, l3⟩ := (Memory.risingFrom_cons ..).1 hn
      have hl : (BitVec.ofNat 8 l).toNat = l := Nat.mod_eq_of_lt l2
      have e : l = k := by
        rcases Nat.lt_trichotomy k l with hlt | rfl | hlt
        · rw [Memory.read_cons, if_neg (by omega),
            Memory.read_eq_none_of_risingFrom rest' (l + 1) _ (by omega) l3] at atk
          simp at atk
        · rfl
        · have atl := h (BitVec.ofNat 8 l) (by omega)
          rw [Memory.read_cons, if_neg (by omega), Memory.read_cons, if_pos hl.symm,
            Memory.read_eq_none_of_risingFrom rest (k + 1) _ (by omega) k3] at atl
          simp at atl
      subst e
      rw [Memory.read_cons, if_pos hk.symm] at atk
      rw [Option.some.injEq] at atk
      subst atk
      rw [ih rest' (l + 1) k3 l3 fun i hi => ?_]
      have hi' := h i (by omega)
      rwa [Memory.read_cons, if_neg (by omega), Memory.read_cons, if_neg (by omega)] at hi'

/-- Equal memories are equal data: two canonical memories that read the same are the same. -/
theorem Memory.ext_of_read {m n : Memory w} (hm : m.wf = true) (hn : n.wf = true)
    (h : ∀ i, m.read i = n.read i) : m = n :=
  Memory.ext_risingFrom m n 0 hm hn fun i _ => h i

end Sys2Proof.Machine
end

