-- ==== Sys2Proof/Laws/Crc.lean ====
section
/-! SUPPORT. The engine over a table memory computes the function over the table's values, wherever the memory holds
them all. -/

namespace Sys2Proof.Machine

variable {w : Nat}

theorem Memory.foldBytes_of_read (m : Memory w) (t : Byte → BitVec w) (h : ∀ i, m.read i = some (t i))
    (bytes : List Byte) (s : BitVec w) : m.foldBytes bytes s = some (bytes.foldl (stepW t) s) := by
  induction bytes generalizing s with
  | nil => rfl
  | cons b rest ih => simp [Memory.foldBytes, h, stepW, ih]

/-- The engine's spec lemma: over a memory that holds the table `t` whole, `update` is `update_W(t, ...)` (R120). -/
theorem Memory.update_of_read (m : Memory w) (t : Byte → BitVec w) (h : ∀ i, m.read i = some (t i))
    (bytes : List Byte) (state : BitVec w) : m.update bytes state = some (updateW t bytes state) := by
  simp [Memory.update, Memory.foldBytes_of_read m t h, updateW]

@[simp] theorem roundsW_zero (p r : BitVec w) : roundsW p 0 r = r := rfl

theorem roundsW_succ (p r : BitVec w) (n : Nat) : roundsW p (n + 1) r = roundsW p n (roundW p r) := rfl

end Sys2Proof.Machine
end

