-- ==== Sys2Proof/Laws/Decode.lean ====
section
/-! SUPPORT. Everything the decoder can answer, said once. -/

namespace Sys2Proof

/-- A command is decoded exactly when its word meets a row and its data fits the format (R75). -/
theorem decode_eq_ok_iff (t : Transaction) (i : Instr) :
    decode t = .ok i ↔ ∃ o, findOpcode t.cw = some o ∧ dataFits (formatOf o) t = true ∧ i = assemble o t := by
  unfold decode
  cases findOpcode t.cw with
  | none => simp
  | some o => cases h : dataFits (formatOf o) t <;> simp [h, @eq_comm _ i]

/-- The decoder's refusals: no row, or data that does not fit (R75, R173). -/
theorem decode_eq_error_iff (t : Transaction) (c : FaultCause) :
    decode t = .error c ↔
      (findOpcode t.cw = none ∧ c = .illegalCommand) ∨
      ∃ o, findOpcode t.cw = some o ∧ dataFits (formatOf o) t = false ∧ c = .lengthMismatch := by
  unfold decode
  cases findOpcode t.cw with
  | none => simp [@eq_comm _ c]
  | some o => cases h : dataFits (formatOf o) t <;> simp [h, @eq_comm _ c]

/-- A row is found only where the word meets it. -/
theorem findOpcode_eq_some {cw : CommandWord} {o : Opcode} (h : findOpcode cw = some o) :
    ∃ r ∈ encodingTable, r.opcode = o ∧ cw &&& r.mask = r.pattern := by
  simp only [findOpcode, Option.map_eq_some_iff] at h
  obtain ⟨r, hr, rfl⟩ := h
  exact ⟨r, List.mem_of_find?_eq_some hr, rfl, by simpa [meetsRow] using List.find?_some hr⟩

/-- No row is found only where the word meets none. -/
theorem findOpcode_eq_none_iff (cw : CommandWord) :
    findOpcode cw = none ↔ ∀ r ∈ encodingTable, cw &&& r.mask ≠ r.pattern := by
  simp [findOpcode, meetsRow]

/-! ## The fields of `op ‖ arg` -/

@[simp] theorem opOf_append (op : BitVec 8) (arg : Word64) : opOf (op ++ arg) = op := by
  apply BitVec.eq_of_getLsbD_eq
  intro i hi
  have h : ¬ 64 + i < 64 := by omega
  simp only [opOf, BitVec.getLsbD_extractLsb', BitVec.getLsbD_append, h]
  simp [hi]

@[simp] theorem argOf_append (op : BitVec 8) (arg : Word64) : argOf (op ++ arg) = arg := by
  apply BitVec.eq_of_getLsbD_eq
  intro i hi
  simp only [argOf, BitVec.getLsbD_extractLsb', BitVec.getLsbD_append, Nat.zero_add]
  simp [hi]

/-- A command word is its two fields (R71). -/
theorem append_opOf_argOf (cw : CommandWord) : (opOf cw ++ argOf cw : CommandWord) = cw := by
  apply BitVec.eq_of_getLsbD_eq
  intro i hi
  simp only [opOf, argOf, BitVec.getLsbD_append, BitVec.getLsbD_extractLsb']
  by_cases h : i < 64
  · simp [h]
  · have e : 64 + (i - 64) = i := by omega
    have l : i - 64 < 8 := by omega
    simp [h, e, l]

@[simp] theorem imm32Of_append (op : BitVec 8) (arg : Word64) : imm32Of (op ++ arg) = BitVec.ofNat 32 arg.toNat := by
  apply BitVec.eq_of_getLsbD_eq
  intro i hi
  have : i < 64 := by omega
  simp only [imm32Of, BitVec.getLsbD_extractLsb', BitVec.getLsbD_append, Nat.zero_add]
  simp [hi, this]

@[simp] theorem idxOf_append (op : BitVec 8) (arg : Word64) : idxOf (op ++ arg) = BitVec.ofNat 8 arg.toNat := by
  apply BitVec.eq_of_getLsbD_eq
  intro i hi
  have : i < 64 := by omega
  simp only [idxOf, BitVec.getLsbD_extractLsb', BitVec.getLsbD_append, Nat.zero_add]
  simp [hi, this]

/-! ## The row a word `op ‖ arg` meets -/

/-- A row's test splits into one on `op` and one on `arg`. -/
theorem append_and_eq_iff (op q : BitVec 8) (arg m p : Word64) :
    ((op ++ arg : CommandWord) &&& (0xFF#8 ++ m : CommandWord) = (q ++ p : CommandWord)) ↔ op = q ∧ arg &&& m = p := by
  have split_and : ((op ++ arg : CommandWord) &&& (0xFF#8 ++ m : CommandWord)) = (op ++ (arg &&& m) : CommandWord) := by
    have all : op &&& 0xFF#8 = op := by
      rw [show 0xFF#8 = BitVec.allOnes 8 by decide, BitVec.and_allOnes]
    apply BitVec.eq_of_getLsbD_eq
    intro i hi
    simp only [BitVec.getLsbD_and, BitVec.getLsbD_append]
    split
    · rfl
    · rw [← BitVec.getLsbD_and, all]
  rw [split_and]
  constructor
  · intro h
    exact ⟨by simpa using congrArg opOf h, by simpa using congrArg argOf h⟩
  · rintro ⟨rfl, rfl⟩
    rfl

/-- The bits of `arg` from `n` on are 0 exactly when it is below `2^n`. -/
theorem and_shiftLeft_allOnes_eq_zero_iff (arg : Word64) (n : Nat) :
    arg &&& BitVec.allOnes 64 <<< n = 0#64 ↔ arg.toNat < 2 ^ n := by
  constructor
  · intro h
    refine Nat.lt_pow_two_of_testBit _ fun i hi => ?_
    rcases Nat.lt_or_ge i 64 with lt | ge
    · have bit := congrArg (fun x => x.getLsbD i) h
      simp only [BitVec.getLsbD_and, BitVec.getLsbD_shiftLeft, BitVec.getLsbD_allOnes] at bit
      simpa [lt, Nat.not_lt.2 hi, (by omega : i - n < 64), BitVec.getLsbD] using bit
    · exact BitVec.getLsbD_of_ge arg i ge
  · intro h
    apply BitVec.eq_of_getLsbD_eq
    intro i _
    by_cases lt : i < n
    · simp [BitVec.getLsbD_shiftLeft, lt]
    · have bit : arg.getLsbD i = false :=
        Nat.testBit_lt_two_pow (Nat.lt_of_lt_of_le h (Nat.pow_le_pow_right (by omega) (by omega)))
      simp only [BitVec.getLsbD_and, bit, Bool.false_and, BitVec.getLsbD_zero]

/-- The opcode map by `op` and the number of operand bits of `arg`; the bits above them are reserved (R72). -/
def splitRows : List (Opcode × BitVec 8 × Nat) :=
  [ (.bld32, 0x10#8, 0), (.bld64, 0x11#8, 0), (.upd32, 0x20#8, 64), (.upd64, 0x21#8, 64), (.lds32, 0x30#8, 32),
    (.lds64, 0x31#8, 64), (.rds32, 0x40#8, 0), (.rds64, 0x41#8, 0), (.rdt32, 0x50#8, 8), (.rdt64, 0x51#8, 8),
    (.sinit, 0x60#8, 0), (.schunk, 0x61#8, 64), (.rdtot, 0x62#8, 0), (.rdsr, 0x63#8, 0) ]

theorem encodingTable_eq_splitRows :
    encodingTable = splitRows.map fun x =>
      ⟨x.1, (x.2.1 ++ 0#64 : CommandWord), (0xFF#8 ++ BitVec.allOnes 64 <<< x.2.2 : CommandWord)⟩ := by decide

/-- The row of `op ‖ arg` is the row of `op`, where no reserved bit of `arg` is 1. -/
theorem findOpcode_append (op : BitVec 8) (arg : Word64) :
    findOpcode (op ++ arg) =
      (splitRows.find? fun x => op == x.2.1 && decide (arg.toNat < 2 ^ x.2.2)).map (·.1) := by
  rw [findOpcode, encodingTable_eq_splitRows, List.find?_map, Option.map_map]
  have same : (meetsRow (op ++ arg) ∘ fun x : Opcode × BitVec 8 × Nat =>
      (⟨x.1, (x.2.1 ++ 0#64 : CommandWord), (0xFF#8 ++ BitVec.allOnes 64 <<< x.2.2 : CommandWord)⟩ : EncodingRow)) =
      fun x => op == x.2.1 && decide (arg.toNat < 2 ^ x.2.2) := by
    funext x
    rw [Bool.eq_iff_iff, Bool.and_eq_true, beq_iff_eq, decide_eq_true_iff,
      ← and_shiftLeft_allOnes_eq_zero_iff, Function.comp, meetsRow, beq_iff_eq]
    exact append_and_eq_iff op x.2.1 arg _ 0#64
  rw [same]
  rfl

section Rows

variable (arg : Word64)

theorem toNat_eq_zero_iff : arg.toNat = 0 ↔ arg = 0#64 := by simp [BitVec.toNat_eq]

theorem findOpcode_bld32 : findOpcode (0x10#8 ++ arg) = if arg = 0#64 then some .bld32 else none := by
  rw [findOpcode_append]
  by_cases h : arg = 0#64 <;> simp [splitRows, List.find?, toNat_eq_zero_iff, h]
theorem findOpcode_bld64 : findOpcode (0x11#8 ++ arg) = if arg = 0#64 then some .bld64 else none := by
  rw [findOpcode_append]
  by_cases h : arg = 0#64 <;> simp [splitRows, List.find?, toNat_eq_zero_iff, h]
theorem findOpcode_upd32 : findOpcode (0x20#8 ++ arg) = some .upd32 := by
  simp [findOpcode_append, splitRows, arg.isLt]
theorem findOpcode_upd64 : findOpcode (0x21#8 ++ arg) = some .upd64 := by
  simp [findOpcode_append, splitRows, arg.isLt]
theorem findOpcode_lds32 : findOpcode (0x30#8 ++ arg) = if arg.toNat < 2 ^ 32 then some .lds32 else none := by
  rw [findOpcode_append]
  by_cases h : arg.toNat < 4294967296 <;> simp [splitRows, List.find?, h]
theorem findOpcode_lds64 : findOpcode (0x31#8 ++ arg) = some .lds64 := by
  simp [findOpcode_append, splitRows, arg.isLt]
theorem findOpcode_rds32 : findOpcode (0x40#8 ++ arg) = if arg = 0#64 then some .rds32 else none := by
  rw [findOpcode_append]
  by_cases h : arg = 0#64 <;> simp [splitRows, List.find?, toNat_eq_zero_iff, h]
theorem findOpcode_rds64 : findOpcode (0x41#8 ++ arg) = if arg = 0#64 then some .rds64 else none := by
  rw [findOpcode_append]
  by_cases h : arg = 0#64 <;> simp [splitRows, List.find?, toNat_eq_zero_iff, h]
theorem findOpcode_rdt32 : findOpcode (0x50#8 ++ arg) = if arg.toNat < 2 ^ 8 then some .rdt32 else none := by
  rw [findOpcode_append]
  by_cases h : arg.toNat < 256 <;> simp [splitRows, List.find?, h]
theorem findOpcode_rdt64 : findOpcode (0x51#8 ++ arg) = if arg.toNat < 2 ^ 8 then some .rdt64 else none := by
  rw [findOpcode_append]
  by_cases h : arg.toNat < 256 <;> simp [splitRows, List.find?, h]
theorem findOpcode_sinit : findOpcode (0x60#8 ++ arg) = if arg = 0#64 then some .sinit else none := by
  rw [findOpcode_append]
  by_cases h : arg = 0#64 <;> simp [splitRows, List.find?, toNat_eq_zero_iff, h]
theorem findOpcode_schunk : findOpcode (0x61#8 ++ arg) = some .schunk := by
  simp [findOpcode_append, splitRows, arg.isLt]
theorem findOpcode_rdtot : findOpcode (0x62#8 ++ arg) = if arg = 0#64 then some .rdtot else none := by
  rw [findOpcode_append]
  by_cases h : arg = 0#64 <;> simp [splitRows, List.find?, toNat_eq_zero_iff, h]
theorem findOpcode_rdsr : findOpcode (0x63#8 ++ arg) = if arg = 0#64 then some .rdsr else none := by
  rw [findOpcode_append]
  by_cases h : arg = 0#64 <;> simp [splitRows, List.find?, toNat_eq_zero_iff, h]

end Rows

end Sys2Proof
end

