-- ==== Sys2Proof/Laws/State.lean ====
section
/-! SUPPORT. What each update of the state does to each field: one lemma per field per update, true by `rfl`, so that
no later proof unfolds a record update. -/

namespace Sys2Proof.Machine

variable (s : State)

/-! ### setTable32 -/

@[simp] theorem State.t32_setTable32 (m : Memory 32) : (s.setTable32 m).t32 = m := rfl
@[simp] theorem State.t64_setTable32 (m : Memory 32) : (s.setTable32 m).t64 = s.t64 := rfl
@[simp] theorem State.t32v_setTable32 (m : Memory 32) : (s.setTable32 m).t32v = true := rfl
@[simp] theorem State.t64v_setTable32 (m : Memory 32) : (s.setTable32 m).t64v = s.t64v := rfl
@[simp] theorem State.acc32_setTable32 (m : Memory 32) : (s.setTable32 m).acc32 = s.acc32 := rfl
@[simp] theorem State.acc64_setTable32 (m : Memory 32) : (s.setTable32 m).acc64 = s.acc64 := rfl
@[simp] theorem State.total_setTable32 (m : Memory 32) : (s.setTable32 m).total = s.total := rfl
@[simp] theorem State.eos_setTable32 (m : Memory 32) : (s.setTable32 m).eos = s.eos := rfl
@[simp] theorem State.err_setTable32 (m : Memory 32) : (s.setTable32 m).err = s.err := rfl
@[simp] theorem State.inputs_setTable32 (m : Memory 32) : (s.setTable32 m).inputs = s.inputs := rfl
@[simp] theorem State.responses_setTable32 (m : Memory 32) : (s.setTable32 m).responses = s.responses := rfl

/-! ### setTable64 -/

@[simp] theorem State.t32_setTable64 (m : Memory 64) : (s.setTable64 m).t32 = s.t32 := rfl
@[simp] theorem State.t64_setTable64 (m : Memory 64) : (s.setTable64 m).t64 = m := rfl
@[simp] theorem State.t32v_setTable64 (m : Memory 64) : (s.setTable64 m).t32v = s.t32v := rfl
@[simp] theorem State.t64v_setTable64 (m : Memory 64) : (s.setTable64 m).t64v = true := rfl
@[simp] theorem State.acc32_setTable64 (m : Memory 64) : (s.setTable64 m).acc32 = s.acc32 := rfl
@[simp] theorem State.acc64_setTable64 (m : Memory 64) : (s.setTable64 m).acc64 = s.acc64 := rfl
@[simp] theorem State.total_setTable64 (m : Memory 64) : (s.setTable64 m).total = s.total := rfl
@[simp] theorem State.eos_setTable64 (m : Memory 64) : (s.setTable64 m).eos = s.eos := rfl
@[simp] theorem State.err_setTable64 (m : Memory 64) : (s.setTable64 m).err = s.err := rfl
@[simp] theorem State.inputs_setTable64 (m : Memory 64) : (s.setTable64 m).inputs = s.inputs := rfl
@[simp] theorem State.responses_setTable64 (m : Memory 64) : (s.setTable64 m).responses = s.responses := rfl

/-! ### setAcc32 -/

@[simp] theorem State.t32_setAcc32 (v : Word32) : (s.setAcc32 v).t32 = s.t32 := rfl
@[simp] theorem State.t64_setAcc32 (v : Word32) : (s.setAcc32 v).t64 = s.t64 := rfl
@[simp] theorem State.t32v_setAcc32 (v : Word32) : (s.setAcc32 v).t32v = s.t32v := rfl
@[simp] theorem State.t64v_setAcc32 (v : Word32) : (s.setAcc32 v).t64v = s.t64v := rfl
@[simp] theorem State.acc32_setAcc32 (v : Word32) : (s.setAcc32 v).acc32 = v := rfl
@[simp] theorem State.acc64_setAcc32 (v : Word32) : (s.setAcc32 v).acc64 = s.acc64 := rfl
@[simp] theorem State.total_setAcc32 (v : Word32) : (s.setAcc32 v).total = s.total := rfl
@[simp] theorem State.eos_setAcc32 (v : Word32) : (s.setAcc32 v).eos = s.eos := rfl
@[simp] theorem State.err_setAcc32 (v : Word32) : (s.setAcc32 v).err = s.err := rfl
@[simp] theorem State.inputs_setAcc32 (v : Word32) : (s.setAcc32 v).inputs = s.inputs := rfl
@[simp] theorem State.responses_setAcc32 (v : Word32) : (s.setAcc32 v).responses = s.responses := rfl

/-! ### setAcc64 -/

@[simp] theorem State.t32_setAcc64 (v : Word64) : (s.setAcc64 v).t32 = s.t32 := rfl
@[simp] theorem State.t64_setAcc64 (v : Word64) : (s.setAcc64 v).t64 = s.t64 := rfl
@[simp] theorem State.t32v_setAcc64 (v : Word64) : (s.setAcc64 v).t32v = s.t32v := rfl
@[simp] theorem State.t64v_setAcc64 (v : Word64) : (s.setAcc64 v).t64v = s.t64v := rfl
@[simp] theorem State.acc32_setAcc64 (v : Word64) : (s.setAcc64 v).acc32 = s.acc32 := rfl
@[simp] theorem State.acc64_setAcc64 (v : Word64) : (s.setAcc64 v).acc64 = v := rfl
@[simp] theorem State.total_setAcc64 (v : Word64) : (s.setAcc64 v).total = s.total := rfl
@[simp] theorem State.eos_setAcc64 (v : Word64) : (s.setAcc64 v).eos = s.eos := rfl
@[simp] theorem State.err_setAcc64 (v : Word64) : (s.setAcc64 v).err = s.err := rfl
@[simp] theorem State.inputs_setAcc64 (v : Word64) : (s.setAcc64 v).inputs = s.inputs := rfl
@[simp] theorem State.responses_setAcc64 (v : Word64) : (s.setAcc64 v).responses = s.responses := rfl

/-! ### setTotal -/

@[simp] theorem State.t32_setTotal (v : Word64) : (s.setTotal v).t32 = s.t32 := rfl
@[simp] theorem State.t64_setTotal (v : Word64) : (s.setTotal v).t64 = s.t64 := rfl
@[simp] theorem State.t32v_setTotal (v : Word64) : (s.setTotal v).t32v = s.t32v := rfl
@[simp] theorem State.t64v_setTotal (v : Word64) : (s.setTotal v).t64v = s.t64v := rfl
@[simp] theorem State.acc32_setTotal (v : Word64) : (s.setTotal v).acc32 = s.acc32 := rfl
@[simp] theorem State.acc64_setTotal (v : Word64) : (s.setTotal v).acc64 = s.acc64 := rfl
@[simp] theorem State.total_setTotal (v : Word64) : (s.setTotal v).total = v := rfl
@[simp] theorem State.eos_setTotal (v : Word64) : (s.setTotal v).eos = s.eos := rfl
@[simp] theorem State.err_setTotal (v : Word64) : (s.setTotal v).err = s.err := rfl
@[simp] theorem State.inputs_setTotal (v : Word64) : (s.setTotal v).inputs = s.inputs := rfl
@[simp] theorem State.responses_setTotal (v : Word64) : (s.setTotal v).responses = s.responses := rfl

/-! ### setEos -/

@[simp] theorem State.t32_setEos (b : Bool) : (s.setEos b).t32 = s.t32 := rfl
@[simp] theorem State.t64_setEos (b : Bool) : (s.setEos b).t64 = s.t64 := rfl
@[simp] theorem State.t32v_setEos (b : Bool) : (s.setEos b).t32v = s.t32v := rfl
@[simp] theorem State.t64v_setEos (b : Bool) : (s.setEos b).t64v = s.t64v := rfl
@[simp] theorem State.acc32_setEos (b : Bool) : (s.setEos b).acc32 = s.acc32 := rfl
@[simp] theorem State.acc64_setEos (b : Bool) : (s.setEos b).acc64 = s.acc64 := rfl
@[simp] theorem State.total_setEos (b : Bool) : (s.setEos b).total = s.total := rfl
@[simp] theorem State.eos_setEos (b : Bool) : (s.setEos b).eos = b := rfl
@[simp] theorem State.err_setEos (b : Bool) : (s.setEos b).err = s.err := rfl
@[simp] theorem State.inputs_setEos (b : Bool) : (s.setEos b).inputs = s.inputs := rfl
@[simp] theorem State.responses_setEos (b : Bool) : (s.setEos b).responses = s.responses := rfl

/-! ### setErr -/

@[simp] theorem State.t32_setErr (e : BitVec 4) : (s.setErr e).t32 = s.t32 := rfl
@[simp] theorem State.t64_setErr (e : BitVec 4) : (s.setErr e).t64 = s.t64 := rfl
@[simp] theorem State.t32v_setErr (e : BitVec 4) : (s.setErr e).t32v = s.t32v := rfl
@[simp] theorem State.t64v_setErr (e : BitVec 4) : (s.setErr e).t64v = s.t64v := rfl
@[simp] theorem State.acc32_setErr (e : BitVec 4) : (s.setErr e).acc32 = s.acc32 := rfl
@[simp] theorem State.acc64_setErr (e : BitVec 4) : (s.setErr e).acc64 = s.acc64 := rfl
@[simp] theorem State.total_setErr (e : BitVec 4) : (s.setErr e).total = s.total := rfl
@[simp] theorem State.eos_setErr (e : BitVec 4) : (s.setErr e).eos = s.eos := rfl
@[simp] theorem State.err_setErr (e : BitVec 4) : (s.setErr e).err = e := rfl
@[simp] theorem State.inputs_setErr (e : BitVec 4) : (s.setErr e).inputs = s.inputs := rfl
@[simp] theorem State.responses_setErr (e : BitVec 4) : (s.setErr e).responses = s.responses := rfl

/-! ### setInputs -/

@[simp] theorem State.t32_setInputs (ins : List HostInput) : (s.setInputs ins).t32 = s.t32 := rfl
@[simp] theorem State.t64_setInputs (ins : List HostInput) : (s.setInputs ins).t64 = s.t64 := rfl
@[simp] theorem State.t32v_setInputs (ins : List HostInput) : (s.setInputs ins).t32v = s.t32v := rfl
@[simp] theorem State.t64v_setInputs (ins : List HostInput) : (s.setInputs ins).t64v = s.t64v := rfl
@[simp] theorem State.acc32_setInputs (ins : List HostInput) : (s.setInputs ins).acc32 = s.acc32 := rfl
@[simp] theorem State.acc64_setInputs (ins : List HostInput) : (s.setInputs ins).acc64 = s.acc64 := rfl
@[simp] theorem State.total_setInputs (ins : List HostInput) : (s.setInputs ins).total = s.total := rfl
@[simp] theorem State.eos_setInputs (ins : List HostInput) : (s.setInputs ins).eos = s.eos := rfl
@[simp] theorem State.err_setInputs (ins : List HostInput) : (s.setInputs ins).err = s.err := rfl
@[simp] theorem State.inputs_setInputs (ins : List HostInput) : (s.setInputs ins).inputs = ins := rfl
@[simp] theorem State.responses_setInputs (ins : List HostInput) : (s.setInputs ins).responses = s.responses := rfl

/-! ### addResponse -/

@[simp] theorem State.t32_addResponse (r : Response) : (s.addResponse r).t32 = s.t32 := rfl
@[simp] theorem State.t64_addResponse (r : Response) : (s.addResponse r).t64 = s.t64 := rfl
@[simp] theorem State.t32v_addResponse (r : Response) : (s.addResponse r).t32v = s.t32v := rfl
@[simp] theorem State.t64v_addResponse (r : Response) : (s.addResponse r).t64v = s.t64v := rfl
@[simp] theorem State.acc32_addResponse (r : Response) : (s.addResponse r).acc32 = s.acc32 := rfl
@[simp] theorem State.acc64_addResponse (r : Response) : (s.addResponse r).acc64 = s.acc64 := rfl
@[simp] theorem State.total_addResponse (r : Response) : (s.addResponse r).total = s.total := rfl
@[simp] theorem State.eos_addResponse (r : Response) : (s.addResponse r).eos = s.eos := rfl
@[simp] theorem State.err_addResponse (r : Response) : (s.addResponse r).err = s.err := rfl
@[simp] theorem State.inputs_addResponse (r : Response) : (s.addResponse r).inputs = s.inputs := rfl
@[simp] theorem State.responses_addResponse (r : Response) : (s.addResponse r).responses = s.responses ++ [r] := rfl

/-! ### reset -/

@[simp] theorem State.t32_reset : State.reset.t32 = [] := rfl
@[simp] theorem State.t64_reset : State.reset.t64 = [] := rfl
@[simp] theorem State.t32v_reset : State.reset.t32v = false := rfl
@[simp] theorem State.t64v_reset : State.reset.t64v = false := rfl
@[simp] theorem State.acc32_reset : State.reset.acc32 = 0 := rfl
@[simp] theorem State.acc64_reset : State.reset.acc64 = 0 := rfl
@[simp] theorem State.total_reset : State.reset.total = 0 := rfl
@[simp] theorem State.eos_reset : State.reset.eos = false := rfl
@[simp] theorem State.err_reset : State.reset.err = 0 := rfl
@[simp] theorem State.inputs_reset : State.reset.inputs = [] := rfl
@[simp] theorem State.responses_reset : State.reset.responses = [] := rfl

end Sys2Proof.Machine
end

