-- ==== Sys2Proof/Laws/Ops.lean ====
section
/-! SUPPORT. Everything the shared operations can do, said once: the provers cite these and unfold no operation. -/

namespace Sys2Proof.Machine

/-- `respond` always answers a next state, with one more response and nothing else changed. -/
theorem respond_eq_next_iff (v : Word64) (s t : State) :
    respond v s = .next t ↔ t = s.addResponse ⟨0#4, v⟩ := by
  rw [respond, statusOk, Host.Outcome.next.injEq, eq_comm]

/-- `raiseFault` always answers a next state: the ERR latch, one more response, nothing else (R174). -/
theorem raiseFault_eq_next_iff (c : FaultCause) (s t : State) :
    raiseFault c s = .next t ↔
      t = (s.setErr (latchErr s.err (faultCode c))).addResponse ⟨faultCode c, 0⟩ := by
  rw [raiseFault, Host.Outcome.next.injEq, eq_comm]

@[simp] theorem requireBuilt_true (s : State) (k : Result) : requireBuilt true s k = k := rfl

@[simp] theorem requireBuilt_false (s : State) (k : Result) :
    requireBuilt false s k = raiseFault .tableNotBuilt s := rfl

theorem requireBuilt_eq_next_iff (b : Bool) (s t : State) (k : Result) :
    requireBuilt b s k = .next t ↔
      (b = true ∧ k = .next t) ∨ (b = false ∧ raiseFault .tableNotBuilt s = .next t) := by
  cases b <;> simp

theorem requireOpen_eq_next_iff (s t : State) (k : Result) :
    requireOpen s k = .next t ↔
      (s.eos = false ∧ k = .next t) ∨ (s.eos = true ∧ raiseFault .sessionEnded s = .next t) := by
  cases h : s.eos <;> simp [requireOpen, h]

@[simp] theorem withValue_some {α : Type} (v : α) (k : α → Result) : withValue (some v) k = k v := rfl

theorem withValue_eq_next_iff {α : Type} (x : Option α) (k : α → Result) (t : State) :
    withValue x k = .next t ↔ ∃ v, x = some v ∧ k v = .next t := by
  cases x <;> simp [withValue]

@[simp] theorem latchErr_zero (code : BitVec 4) : latchErr 0#4 code = code := rfl

theorem latchErr_of_ne {err : BitVec 4} (h : err ≠ 0#4) (code : BitVec 4) : latchErr err code = err := if_neg h

theorem faultCode_ne_zero (c : FaultCause) : faultCode c ≠ 0#4 := by cases c <;> decide

theorem faultCode_le_four (c : FaultCause) : faultCode c ≤ 4#4 := by cases c <;> decide

end Sys2Proof.Machine
end

