-- ==== Sys2Proof/Laws/Exec.lean ====
section
/-! SUPPORT. One inversion lemma per meaning: exactly the next states it can answer. Every claim about what commands do
to the state follows from these, without unfolding a meaning. -/

namespace Sys2Proof.Machine

variable (s t : State)

/-- The state a refusal with cause `c` leaves (R174). -/
def State.afterFault (s : State) (c : FaultCause) : State :=
  (s.setErr (latchErr s.err (faultCode c))).addResponse ⟨faultCode c, 0⟩

theorem raiseFault_next_iff (c : FaultCause) : raiseFault c s = .next t ↔ t = s.afterFault c :=
  raiseFault_eq_next_iff c s t

theorem exec_bld32_next_iff :
    exec .bld32 s = .next t ↔ t = (s.setTable32 (s.t32.build Config.poly32)).addResponse ⟨0#4, 0⟩ :=
  respond_eq_next_iff _ _ _

theorem exec_bld64_next_iff :
    exec .bld64 s = .next t ↔ t = (s.setTable64 (s.t64.build Config.poly64)).addResponse ⟨0#4, 0⟩ :=
  respond_eq_next_iff _ _ _

theorem exec_rdt32_next_iff (idx : Byte) :
    exec (.rdt32 idx) s = .next t ↔
      (s.t32v = true ∧ ∃ v, s.t32.read idx = some v ∧ t = s.addResponse ⟨0#4, zext64 v⟩) ∨
      (s.t32v = false ∧ t = s.afterFault .tableNotBuilt) := by
  simp only [exec, execRdt32, requireBuilt_eq_next_iff, withValue_eq_next_iff, respond_eq_next_iff, raiseFault_next_iff]

theorem exec_rdt64_next_iff (idx : Byte) :
    exec (.rdt64 idx) s = .next t ↔
      (s.t64v = true ∧ ∃ v, s.t64.read idx = some v ∧ t = s.addResponse ⟨0#4, v⟩) ∨
      (s.t64v = false ∧ t = s.afterFault .tableNotBuilt) := by
  simp only [exec, execRdt64, requireBuilt_eq_next_iff, withValue_eq_next_iff, respond_eq_next_iff, raiseFault_next_iff]

theorem exec_upd32_next_iff (data : List Byte) :
    exec (.upd32 data) s = .next t ↔
      (s.t32v = true ∧ ∃ v, s.t32.update data s.acc32 = some v ∧ t = (s.setAcc32 v).addResponse ⟨0#4, zext64 v⟩) ∨
      (s.t32v = false ∧ t = s.afterFault .tableNotBuilt) := by
  simp only [exec, execUpd32, requireBuilt_eq_next_iff, withValue_eq_next_iff, respond_eq_next_iff, raiseFault_next_iff]

theorem exec_upd64_next_iff (data : List Byte) :
    exec (.upd64 data) s = .next t ↔
      (s.t64v = true ∧ ∃ v, s.t64.update data s.acc64 = some v ∧ t = (s.setAcc64 v).addResponse ⟨0#4, v⟩) ∨
      (s.t64v = false ∧ t = s.afterFault .tableNotBuilt) := by
  simp only [exec, execUpd64, requireBuilt_eq_next_iff, withValue_eq_next_iff, respond_eq_next_iff, raiseFault_next_iff]

theorem exec_lds32_next_iff (v : Word32) :
    exec (.lds32 v) s = .next t ↔ t = (s.setAcc32 v).addResponse ⟨0#4, 0⟩ :=
  respond_eq_next_iff _ _ _

theorem exec_lds64_next_iff (v : Word64) :
    exec (.lds64 v) s = .next t ↔ t = (s.setAcc64 v).addResponse ⟨0#4, 0⟩ :=
  respond_eq_next_iff _ _ _

theorem exec_rds32_next_iff : exec .rds32 s = .next t ↔ t = s.addResponse ⟨0#4, zext64 s.acc32⟩ :=
  respond_eq_next_iff _ _ _

theorem exec_rds64_next_iff : exec .rds64 s = .next t ↔ t = s.addResponse ⟨0#4, s.acc64⟩ :=
  respond_eq_next_iff _ _ _

theorem exec_sinit_next_iff :
    exec .sinit s = .next t ↔
      t = ((((s.setAcc32 0).setAcc64 0).setTotal 0).setEos false).addResponse ⟨0#4, 0⟩ :=
  respond_eq_next_iff _ _ _

theorem exec_schunk_next_iff (data : List Byte) :
    exec (.schunk data) s = .next t ↔
      ((s.t32v && s.t64v) = true ∧ s.eos = false ∧ data = [] ∧ t = (s.setEos true).addResponse ⟨0#4, s.total⟩) ∨
      ((s.t32v && s.t64v) = true ∧ s.eos = false ∧ data ≠ [] ∧
        ∃ a b, s.t32.update data s.acc32 = some a ∧ s.t64.update data s.acc64 = some b ∧
          t = (((s.setAcc32 a).setAcc64 b).setTotal (s.total + chunkLength data)).addResponse
            ⟨0#4, s.total + chunkLength data⟩) ∨
      ((s.t32v && s.t64v) = true ∧ s.eos = true ∧ t = s.afterFault .sessionEnded) ∨
      ((s.t32v && s.t64v) = false ∧ t = s.afterFault .tableNotBuilt) := by
  cases data with
  | nil =>
    simp only [exec, execSchunk, List.isEmpty_nil, if_true, endStream, requireBuilt_eq_next_iff,
      requireOpen_eq_next_iff, respond_eq_next_iff, raiseFault_next_iff]
    tauto
  | cons b rest =>
    simp only [exec, execSchunk, List.isEmpty_cons, Bool.false_eq_true, if_false, foldChunk,
      requireBuilt_eq_next_iff, requireOpen_eq_next_iff, withValue_eq_next_iff, respond_eq_next_iff,
      raiseFault_next_iff, reduceCtorEq, false_and, and_false, false_or, ne_eq, not_false_eq_true, true_and]
    constructor
    · rintro (⟨h, ⟨e, a, ha, c, hc, rfl⟩ | ⟨e, rfl⟩⟩ | ⟨h, rfl⟩)
      · exact .inl ⟨h, e, a, c, ha, hc, rfl⟩
      · exact .inr (.inl ⟨h, e, rfl⟩)
      · exact .inr (.inr ⟨h, rfl⟩)
    · rintro (⟨h, e, a, c, ha, hc, rfl⟩ | ⟨h, e, rfl⟩ | ⟨h, rfl⟩)
      · exact .inl ⟨h, .inl ⟨e, a, ha, c, hc, rfl⟩⟩
      · exact .inl ⟨h, .inr ⟨e, rfl⟩⟩
      · exact .inr ⟨h, rfl⟩

theorem exec_rdtot_next_iff : exec .rdtot s = .next t ↔ t = s.addResponse ⟨0#4, s.total⟩ :=
  respond_eq_next_iff _ _ _

theorem exec_rdsr_next_iff :
    exec .rdsr s = .next t ↔ t = s.addResponse ⟨0#4, (statusView s).setWidth 64⟩ :=
  respond_eq_next_iff _ _ _

/-! ## The fields after a fault -/

section AfterFault

variable (c : FaultCause)

@[simp] theorem State.t32_afterFault : (s.afterFault c).t32 = s.t32 := rfl
@[simp] theorem State.t64_afterFault : (s.afterFault c).t64 = s.t64 := rfl
@[simp] theorem State.t32v_afterFault : (s.afterFault c).t32v = s.t32v := rfl
@[simp] theorem State.t64v_afterFault : (s.afterFault c).t64v = s.t64v := rfl
@[simp] theorem State.acc32_afterFault : (s.afterFault c).acc32 = s.acc32 := rfl
@[simp] theorem State.acc64_afterFault : (s.afterFault c).acc64 = s.acc64 := rfl
@[simp] theorem State.total_afterFault : (s.afterFault c).total = s.total := rfl
@[simp] theorem State.eos_afterFault : (s.afterFault c).eos = s.eos := rfl
@[simp] theorem State.err_afterFault : (s.afterFault c).err = latchErr s.err (faultCode c) := rfl
@[simp] theorem State.inputs_afterFault : (s.afterFault c).inputs = s.inputs := rfl
@[simp] theorem State.responses_afterFault :
    (s.afterFault c).responses = s.responses ++ [⟨faultCode c, 0⟩] := rfl

end AfterFault

end Sys2Proof.Machine
end

