-- ==== Sys2Proof/Laws/PerInstr.lean ====
section
/-! SUPPORT. The one family of per-command lemmas: the encoder's transaction meets the command's own row of the opcode
map (spec 30_encoding.md R76) and carries the bytes its format asks for (R81). -/

namespace Sys2Proof.Laws

/-- The row of R76 a command belongs to. -/
def opcodeOf (i : Instr) : Opcode :=
  match i with
  | .bld32 => .bld32
  | .bld64 => .bld64
  | .upd32 _ => .upd32
  | .upd64 _ => .upd64
  | .lds32 _ => .lds32
  | .lds64 _ => .lds64
  | .rds32 => .rds32
  | .rds64 => .rds64
  | .rdt32 _ => .rdt32
  | .rdt64 _ => .rdt64
  | .sinit => .sinit
  | .schunk _ => .schunk
  | .rdtot => .rdtot
  | .rdsr => .rdsr

/-- A well-formed command's word is found in its own row, and its byte sequence fits that row's format. -/
def EncodedWord.Statement (i : Instr) : Prop :=
  wellFormed i = true →
    findOpcode (encode i).cw = some (opcodeOf i) ∧ dataFits (formatOf (opcodeOf i)) (encode i) = true

theorem EncodedWord.bld32 : EncodedWord.Statement .bld32 := by unfold EncodedWord.Statement; decide

theorem EncodedWord.bld64 : EncodedWord.Statement .bld64 := by unfold EncodedWord.Statement; decide

theorem chunkFits (op : BitVec 8) (data : List Byte) (h : lengthEncodable data = true) :
    dataFits .l (chunkCommand op data) = true := by
  have lt : data.length < 2 ^ 64 := of_decide_eq_true h
  simp only [dataFits, chunkCommand, command, argOf_append, BitVec.toNat_ofNat, Nat.mod_eq_of_lt lt, beq_self_eq_true]

theorem EncodedWord.upd32 (data : List Byte) : EncodedWord.Statement (.upd32 data) :=
  fun h => ⟨findOpcode_upd32 _, chunkFits _ data h⟩

theorem EncodedWord.upd64 (data : List Byte) : EncodedWord.Statement (.upd64 data) :=
  fun h => ⟨findOpcode_upd64 _, chunkFits _ data h⟩

theorem EncodedWord.lds32 (imm : Word32) : EncodedWord.Statement (.lds32 imm) :=
  fun _ => ⟨(findOpcode_lds32 _).trans (if_pos (by rw [BitVec.toNat_setWidth]; omega)), rfl⟩

theorem EncodedWord.lds64 (imm : Word64) : EncodedWord.Statement (.lds64 imm) :=
  fun _ => ⟨findOpcode_lds64 _, rfl⟩

theorem EncodedWord.rds32 : EncodedWord.Statement .rds32 := by unfold EncodedWord.Statement; decide

theorem EncodedWord.rds64 : EncodedWord.Statement .rds64 := by unfold EncodedWord.Statement; decide

theorem EncodedWord.rdt32 (idx : Byte) : EncodedWord.Statement (.rdt32 idx) :=
  fun _ => ⟨(findOpcode_rdt32 _).trans (if_pos (by rw [BitVec.toNat_setWidth]; omega)), rfl⟩

theorem EncodedWord.rdt64 (idx : Byte) : EncodedWord.Statement (.rdt64 idx) :=
  fun _ => ⟨(findOpcode_rdt64 _).trans (if_pos (by rw [BitVec.toNat_setWidth]; omega)), rfl⟩

theorem EncodedWord.sinit : EncodedWord.Statement .sinit := by unfold EncodedWord.Statement; decide

theorem EncodedWord.schunk (data : List Byte) : EncodedWord.Statement (.schunk data) :=
  fun h => ⟨findOpcode_schunk _, chunkFits _ data h⟩

theorem EncodedWord.rdtot : EncodedWord.Statement .rdtot := by unfold EncodedWord.Statement; decide

theorem EncodedWord.rdsr : EncodedWord.Statement .rdsr := by unfold EncodedWord.Statement; decide

end Sys2Proof.Laws
end

