-- ==== Sys2Proof/Laws/Step.lean ====
section
/-! SUPPORT. Everything a step can do, said once: idle, reset, a refused transaction, a decoded command. -/

namespace Sys2Proof.Machine

theorem step_eq_takeInput (s : State) : step s = takeInput s := rfl

/-- A step's inversion: what it answers, by the next input. -/
theorem step_cases (s : State) :
    (s.inputs = [] ∧ step s = .next s) ∨
    (∃ a rest, s.inputs = .reset a :: rest ∧ step s = .next (applyReset rest)) ∨
    (∃ t rest c, s.inputs = .command t :: rest ∧ decode t = .error c ∧ step s = raiseFault c (s.setInputs rest)) ∨
    (∃ t rest i, s.inputs = .command t :: rest ∧ decode t = .ok i ∧ step s = exec i (s.setInputs rest)) := by
  rw [step_eq_takeInput]
  unfold takeInput
  cases s.inputs with
  | nil => exact .inl ⟨rfl, rfl⟩
  | cons x rest =>
    cases x with
    | reset a => exact .inr (.inl ⟨a, rest, rfl, rfl⟩)
    | command t =>
      cases h : decode t with
      | error c => exact .inr (.inr (.inl ⟨t, rest, c, rfl, h, by simp [transact, h]⟩))
      | ok i => exact .inr (.inr (.inr ⟨t, rest, i, rfl, h, by simp [transact, h]⟩))

end Sys2Proof.Machine
end

