-- ==== Sys2Proof/Tests/Slice0.lean ====
section
/-! SUPPORT. Tests with expected values from spec/95_test_vectors.md (section numbers below are its own), the smoke test
of `wellFormed`, and for every statement with hypotheses a witness that meets them together. -/

namespace Sys2Proof.Tests

open Sys2Proof.Machine Sys2Proof.Statements

/-! ## Well-formedness -/

theorem test_wellFormed_accepts :
    wellFormed (.upd32 []) = true ∧ wellFormed (.upd64 [0#8]) = true ∧ wellFormed (.schunk [0#8, 0xFF#8]) = true ∧
    wellFormed (.rdt32 255#8) = true ∧ wellFormed .rdsr = true := by decide

theorem not_wellFormed_of_long (data : List Byte) (long : ¬ data.length < 2 ^ 64) :
    wellFormed (.upd32 data) = false ∧ wellFormed (.upd64 data) = false ∧ wellFormed (.schunk data) = false :=
  ⟨decide_eq_false long, decide_eq_false long, decide_eq_false long⟩

/-- A chunk of `2^64` bytes has no 64-bit length, for each of the three format-L commands (R73, D13). -/
theorem test_wellFormed_refuses_oversized :
    ∃ data : List Byte, wellFormed (.upd32 data) = false ∧ wellFormed (.upd64 data) = false ∧
      wellFormed (.schunk data) = false :=
  ⟨List.replicate (2 ^ 64) 0#8, not_wellFormed_of_long _ (by rw [List.length_replicate]; exact lt_irrefl _)⟩

/-! ## Decoding: the words of section 4.1 -/

theorem test_decode_bld32 : decode ⟨0x10_0000000000000000#72, []⟩ = .ok .bld32 := by decide
theorem test_decode_bld64 : decode ⟨0x11_0000000000000000#72, []⟩ = .ok .bld64 := by decide
theorem test_decode_upd32 :
    decode ⟨0x20_0000000000000003#72, [0x61#8, 0x62#8, 0x63#8]⟩ = .ok (.upd32 [0x61#8, 0x62#8, 0x63#8]) := by decide
theorem test_decode_upd64 : decode ⟨0x21_0000000000000000#72, []⟩ = .ok (.upd64 []) := by decide
theorem test_decode_lds32 : decode ⟨0x30_00000000DEADBEEF#72, []⟩ = .ok (.lds32 0xDEADBEEF#32) := by decide
theorem test_decode_lds64 :
    decode ⟨0x31_0123456789ABCDEF#72, []⟩ = .ok (.lds64 0x0123456789ABCDEF#64) := by decide
theorem test_decode_rds32 : decode ⟨0x40_0000000000000000#72, []⟩ = .ok .rds32 := by decide
theorem test_decode_rds64 : decode ⟨0x41_0000000000000000#72, []⟩ = .ok .rds64 := by decide
theorem test_decode_rdt32 : decode ⟨0x50_00000000000000C8#72, []⟩ = .ok (.rdt32 200#8) := by decide
theorem test_decode_rdt64 : decode ⟨0x51_0000000000000007#72, []⟩ = .ok (.rdt64 7#8) := by decide
theorem test_decode_sinit : decode ⟨0x60_0000000000000000#72, []⟩ = .ok .sinit := by decide
theorem test_decode_schunk :
    decode ⟨0x61_0000000000000002#72, [0x00#8, 0xFF#8]⟩ = .ok (.schunk [0x00#8, 0xFF#8]) := by decide
theorem test_decode_rdtot : decode ⟨0x62_0000000000000000#72, []⟩ = .ok .rdtot := by decide
theorem test_decode_rdsr : decode ⟨0x63_0000000000000000#72, []⟩ = .ok .rdsr := by decide

/-- A word written out bit by bit from R71, R72: op 0101_0000, 56 reserved zeros, idx 1100_1000. -/
theorem test_decode_bits_rdt32 :
    decode ⟨0b01010000_00000000_00000000_00000000_00000000_00000000_00000000_00000000_11001000#72, []⟩ =
      .ok (.rdt32 200#8) := by decide

/-- The words of section 4.2 that no row accepts. -/
theorem test_decode_illegal :
    decode ⟨0x00_0000000000000000#72, []⟩ = .error .illegalCommand ∧
    decode ⟨0xFF_FFFFFFFFFFFFFFFF#72, []⟩ = .error .illegalCommand ∧
    decode ⟨0x12_0000000000000000#72, []⟩ = .error .illegalCommand ∧
    decode ⟨0x22_0000000000000000#72, []⟩ = .error .illegalCommand ∧
    decode ⟨0x64_0000000000000000#72, []⟩ = .error .illegalCommand ∧
    decode ⟨0x70_0000000000000000#72, []⟩ = .error .illegalCommand ∧
    decode ⟨0x10_0000000000000001#72, []⟩ = .error .illegalCommand ∧
    decode ⟨0x63_8000000000000000#72, []⟩ = .error .illegalCommand ∧
    decode ⟨0x30_0000000100000000#72, []⟩ = .error .illegalCommand ∧
    decode ⟨0x50_0000000000000100#72, []⟩ = .error .illegalCommand ∧
    decode ⟨0x51_FFFFFFFFFFFFFFFF#72, []⟩ = .error .illegalCommand ∧
    decode ⟨0x00_0000000000000000#72, [0x00#8]⟩ = .error .illegalCommand := by decide

/-- The transactions of section 4.2 whose `data` does not fit. -/
theorem test_decode_misfit :
    decode ⟨0x40_0000000000000000#72, [0x00#8]⟩ = .error .lengthMismatch ∧
    decode ⟨0x20_0000000000000002#72, [0x31#8]⟩ = .error .lengthMismatch ∧
    decode ⟨0x20_0000000000000000#72, [0x31#8]⟩ = .error .lengthMismatch ∧
    decode ⟨0x20_0000000000000001#72, []⟩ = .error .lengthMismatch := by decide

/-- The words of R83's kind, from the encoder. -/
theorem test_encode :
    encode (.rdt64 7#8) = ⟨0x51_0000000000000007#72, []⟩ ∧
    encode (.lds32 0xDEADBEEF#32) = ⟨0x30_00000000DEADBEEF#72, []⟩ ∧
    encode (.schunk [0x00#8, 0xFF#8]) = ⟨0x61_0000000000000002#72, [0x00#8, 0xFF#8]⟩ := by decide

theorem test_decodeTableWord :
    decodeTableWord 72 0x50_00000000000000C8 = some (.rdt32 200#8) ∧
    decodeTableWord 72 0x61_0000000000000002 = some (.schunk [0#8, 0#8]) ∧
    decodeTableWord 72 0x00_0000000000000000 = none := by decide

/-! ## States -/

/-- Reset, then both builds. -/
def built : State :=
  { State.reset with
    t32 := Memory.build Config.poly32 [], t64 := Memory.build Config.poly64 [], t32v := true, t64v := true }

/-- Reset, then BLD32 only. -/
def built32Only : State := { State.reset with t32 := Memory.build Config.poly32 [], t32v := true }

/-- Both tables built and the stream ended. -/
def ended : State := { built with eos := true, responses := [⟨0#4, 0#64⟩] }

/-- Reset, then a command refused with TableNotBuilt. -/
def refusedOnce : State := { State.reset with err := 3#4, responses := [⟨3#4, 0#64⟩] }

/-- A field of the next state, none on a stop. -/
def after {α : Type} (r : Result) (f : State → α) : Option α :=
  match r with
  | .next s => some (f s)
  | .fault _ => none
  | .refused _ => none

/-- The last response given. -/
def lastResponse (s : State) : Option Response := s.responses.getLast?

theorem inv_built : Inv built where
  wf32 := Memory.wf_build _ _ rfl
  wf64 := Memory.wf_build _ _ rfl
  built32 := fun _ i => Memory.read_build _ _ i
  built64 := fun _ i => Memory.read_build _ _ i
  unbuilt32 := fun h => Bool.noConfusion h
  unbuilt64 := fun h => Bool.noConfusion h
  ended := fun h => Bool.noConfusion h
  firstErr := rfl
  answers := fun r h => by cases h

theorem inv_ended : Inv ended where
  wf32 := Memory.wf_build _ _ rfl
  wf64 := Memory.wf_build _ _ rfl
  built32 := fun _ i => Memory.read_build _ _ i
  built64 := fun _ i => Memory.read_build _ _ i
  unbuilt32 := fun h => Bool.noConfusion h
  unbuilt64 := fun h => Bool.noConfusion h
  ended := fun _ => ⟨rfl, rfl⟩
  firstErr := rfl
  answers := by simp [ended]

theorem inv_refusedOnce : Inv refusedOnce where
  wf32 := rfl
  wf64 := rfl
  built32 := fun h => Bool.noConfusion h
  built64 := fun h => Bool.noConfusion h
  unbuilt32 := fun _ _ => rfl
  unbuilt64 := fun _ _ => rfl
  ended := fun h => Bool.noConfusion h
  firstErr := rfl
  answers := by simp [refusedOnce]

theorem inv_setInputs {s : State} (h : Inv s) (ins : List HostInput) : Inv { s with inputs := ins } :=
  ⟨h.wf32, h.wf64, h.built32, h.built64, h.unbuilt32, h.unbuilt64, h.ended, h.firstErr, h.answers⟩

theorem holds_built32 : Holds built.t32 (tableEntry Config.poly32) := fun i => Memory.read_build _ _ i
theorem holds_built64 : Holds built.t64 (tableEntry Config.poly64) := fun i => Memory.read_build _ _ i

/-! ## One command at a time -/

/-- P5, 1 and 4: BLD32, and entry 128 is the polynomial. -/
theorem test_bld32 : after (exec .bld32 State.reset) (fun s => (s.t32v, s.t64v, s.t32.read 128#8)) =
    some (true, false, some 0xEDB88320#32) := by decide +kernel
/-- P5, 7 and 10. -/
theorem test_bld64 : after (exec .bld64 State.reset) (fun s => (s.t32v, s.t64v, s.t64.read 255#8)) =
    some (false, true, some 0xE0ADA17364673F59#64) := by decide +kernel
/-- P5, 3. -/
theorem test_rdt32 : after (exec (.rdt32 1#8) built) lastResponse = some (some ⟨0#4, 0x77073096#64⟩) := by
  decide +kernel
/-- Section 4.3, row 3. -/
theorem test_rdt32_unbuilt :
    after (exec (.rdt32 0#8) State.reset) (fun s => (lastResponse s, s.err)) = some (some ⟨3#4, 0#64⟩, 3#4) := by decide
/-- P5, 8. -/
theorem test_rdt64 : after (exec (.rdt64 1#8) built) lastResponse = some (some ⟨0#4, 0xB32E4CBE03A75F6F#64⟩) := by
  decide +kernel
/-- P5, 6. -/
theorem test_rdt64_unbuilt :
    after (exec (.rdt64 1#8) built32Only) (fun s => (lastResponse s, s.err)) = some (some ⟨3#4, 0#64⟩, 3#4) := by
  decide +kernel
/-- P2, 3. -/
theorem test_upd32 :
    after (exec (.upd32 [0x31#8, 0x32#8, 0x33#8, 0x34#8]) built) (fun s => (s.acc32, s.acc64, s.total, lastResponse s)) =
      some (0x9BE3E0A3#32, 0#64, 0#64, some ⟨0#4, 0x9BE3E0A3#64⟩) := by decide +kernel
/-- Section 4.3, row 9: UPDw ignores EOS. -/
theorem test_upd32_after_end :
    after (exec (.upd32 [0x61#8]) ended) (fun s => (s.acc32, s.eos, s.err)) = some (0xE8B7BE43#32, true, 0#4) := by
  decide +kernel
/-- P2, 9. -/
theorem test_upd64 :
    after (exec (.upd64 [0x35#8, 0x36#8, 0x37#8, 0x38#8, 0x39#8]) { built with acc64 := 0xCE4E879366B8C328#64 })
        (fun s => (s.acc64, s.acc32, lastResponse s)) =
      some (0x995DC9BBDF1939FA#64, 0#32, some ⟨0#4, 0x995DC9BBDF1939FA#64⟩) := by decide +kernel
/-- Section 4.3, row 2. -/
theorem test_upd64_unbuilt :
    after (exec (.upd64 [0x61#8]) built32Only) (fun s => (s.acc64, lastResponse s)) = some (0#64, some ⟨3#4, 0#64⟩) := by
  decide +kernel
/-- R124: the value as given, res 0. -/
theorem test_lds32 :
    after (exec (.lds32 0xDEADBEEF#32) State.reset) (fun s => (s.acc32, s.acc64, lastResponse s)) =
      some (0xDEADBEEF#32, 0#64, some ⟨0#4, 0#64⟩) := by decide
/-- P2, 8. -/
theorem test_lds64 :
    after (exec (.lds64 0xCE4E879366B8C328#64) State.reset) (fun s => (s.acc32, s.acc64, lastResponse s)) =
      some (0#32, 0xCE4E879366B8C328#64, some ⟨0#4, 0#64⟩) := by decide
/-- P1, 6: read out as it stands, zero-extended. -/
theorem test_rds32 :
    after (exec .rds32 { State.reset with acc32 := 0xCBF43926#32 }) lastResponse =
      some (some ⟨0#4, 0x00000000CBF43926#64⟩) := by decide
/-- P1, 7. -/
theorem test_rds64 :
    after (exec .rds64 { State.reset with acc64 := 0x995DC9BBDF1939FA#64 }) lastResponse =
      some (some ⟨0#4, 0x995DC9BBDF1939FA#64⟩) := by decide
/-- Section 4.3, last row: SINIT keeps ERR. -/
theorem test_sinit :
    after (exec .sinit { refusedOnce with acc32 := 1, acc64 := 2, total := 3, eos := true })
        (fun s => (s.acc32, s.acc64, s.total, s.eos, s.err)) = some (0#32, 0#64, 0#64, false, 3#4) := by decide
/-- P1, 4. -/
theorem test_schunk :
    after (exec (.schunk digits) built) (fun s => (s.acc32, s.acc64, s.total, s.eos, lastResponse s)) =
      some (0xCBF43926#32, 0x995DC9BBDF1939FA#64, 9#64, false, some ⟨0#4, 9#64⟩) := by decide +kernel
/-- Section 4.5: TOTAL wraps. -/
theorem test_schunk_wraps :
    after (exec (.schunk [0#8, 0#8, 0#8]) { built with total := 0xFFFFFFFFFFFFFFFE#64 })
        (fun s => (s.total, lastResponse s)) = some (1#64, some ⟨0#4, 1#64⟩) := by decide +kernel
/-- P1, 8. -/
theorem test_rdtot : after (exec .rdtot { State.reset with total := 9#64 }) lastResponse = some (some ⟨0#4, 9#64⟩) := by
  decide
/-- Section 4.4, row 7. -/
theorem test_rdsr :
    after (exec .rdsr { ended with err := 4#4 }) (fun s => (lastResponse s, s.err)) = some (some ⟨0#4, 0x47#64⟩, 4#4) := by
  decide +kernel

/-- Section 4.3, row 10: ERR keeps the first code. -/
theorem test_err_keeps_first :
    after (step { refusedOnce with inputs := [.command ⟨0#72, []⟩] }) (fun s => (lastResponse s, s.err, s.inputs)) =
      some (some ⟨1#4, 0#64⟩, 3#4, []) := by decide

/-- The host's word runs as the first command after reset. -/
theorem test_withFetchWord :
    step (State.reset.withFetchWord 72 0x30_00000000DEADBEEF) = exec (.lds32 0xDEADBEEF#32) State.reset := rfl

/-! ## Witnesses: the hypotheses of each statement, met together -/

theorem witness_DecodeEncodedCommand :
    wellFormed (.lds32 0xFFFFFFFF#32) = true ∧ wellFormed (.rdt64 255#8) = true ∧ wellFormed (.upd64 []) = true ∧
    wellFormed (.schunk [0xFF#8]) = true := by decide

theorem witness_EncodeDecodedTransaction :
    decode ⟨0x50_00000000000000FF#72, []⟩ = .ok (.rdt32 255#8) ∧
    decode ⟨0x20_0000000000000001#72, [0xFF#8]⟩ = .ok (.upd32 [0xFF#8]) := by decide

/-- R77 at its boundaries: the last legal and the first illegal value of each reserved field and code. -/
theorem witness_IllegalCommandExactly :
    illegalWord 0x10#8 1#64 ∧ ¬ illegalWord 0x10#8 0#64 ∧
    illegalWord 0x30#8 0x100000000#64 ∧ ¬ illegalWord 0x30#8 0xFFFFFFFF#64 ∧
    illegalWord 0x51#8 0x100#64 ∧ ¬ illegalWord 0x51#8 0xFF#64 ∧
    illegalWord 0x64#8 0#64 ∧ ¬ illegalWord 0x63#8 0#64 ∧ illegalWord 0x52#8 0#64 ∧ illegalWord 0x70#8 0#64 := by
  unfold illegalWord reservedBitSet
  refine ⟨?_, ?_, ?_, ?_, ?_, ?_, ?_, ?_, ?_, ?_⟩ <;> decide

theorem witness_LengthMismatchExactly :
    (¬ illegalWord 0x40#8 0#64 ∧ dataMisfit 0x40#8 0#64 [0#8]) ∧
    (¬ illegalWord 0x20#8 0#64 ∧ dataMisfit 0x20#8 0#64 [0#8]) ∧
    (¬ illegalWord 0x61#8 1#64 ∧ dataMisfit 0x61#8 1#64 []) := by
  unfold illegalWord reservedBitSet dataMisfit
  refine ⟨?_, ?_, ?_⟩ <;> decide

theorem witness_EncodingRowsUnambiguous :
    (⟨.rdsr, 0x63_0000000000000000#72, 0xFF_FFFFFFFFFFFFFFFF#72⟩ : EncodingRow) ∈ encodingTable ∧
    meetsRow 0x63_0000000000000000#72 ⟨.rdsr, 0x63_0000000000000000#72, 0xFF_FFFFFFFFFFFFFFFF#72⟩ = true := by decide

theorem witness_StepRunsDecodedCommand :
    decode (encode .sinit) = .ok .sinit ∧
    step { built with inputs := [.command (encode .sinit)] } = exec .sinit built := ⟨by decide, rfl⟩

/-- A command that executes, one the decoder refuses and one refused by its meaning, each in a state about to issue it. -/
theorem witness_CommandAnswersOnceAndRefusesPrecisely :
    (∃ t, step { built with inputs := [.command (encode .sinit)] } = .next t) ∧
    (∃ t, step { built with inputs := [.command ⟨0#72, []⟩] } = .next t) ∧
    (∃ t, step { ended with inputs := [.command (encode (.schunk []))] } = .next t) := ⟨⟨_, rfl⟩, ⟨_, rfl⟩, ⟨_, rfl⟩⟩

theorem witness_IdleAndResetStepsExactly : ended.inputs = [] ∧ step ended = .next ended := ⟨rfl, rfl⟩

/-- Both ends of the index range, in both tables. -/
theorem witness_ReadTableCommandsComplete :
    built.t32v = true ∧ built.t64v = true ∧
    built.t32.read 0#8 = some 0#32 ∧ built.t32.read 255#8 = some 0x2D02EF8D#32 ∧
    built.t64.read 0#8 = some 0#64 ∧ built.t64.read 255#8 = some 0xE0ADA17364673F59#64 := by decide +kernel

theorem witness_UpdateCommandsComplete :
    built.t32v = true ∧ Holds built.t32 (tableEntry Config.poly32) ∧
    built.t64v = true ∧ Holds built.t64 (tableEntry Config.poly64) := ⟨rfl, holds_built32, rfl, holds_built64⟩

/-- The hypotheses of the chunk's two clauses, with the empty chunk and the shortest chunk that is not. -/
theorem witness_ChunkCommandCompletes :
    built.t32v = true ∧ built.t64v = true ∧ built.eos = false ∧
    Holds built.t32 (tableEntry Config.poly32) ∧ Holds built.t64 (tableEntry Config.poly64) ∧
    ([] : List Byte) = [] ∧ [0#8] ≠ [] := ⟨rfl, rfl, rfl, holds_built32, holds_built64, rfl, by decide⟩

theorem witness_UnbuiltTableRefused :
    State.reset.t32v = false ∧ State.reset.t64v = false ∧ built32Only.t32v = true ∧ built32Only.t64v = false :=
  ⟨rfl, rfl, rfl, rfl⟩

/-- A second build of a built table (R106). -/
theorem witness_BuildCommandWords :
    built.t32.wf = true ∧ Holds built.t32 (tableEntry Config.poly32) ∧
    built.t64.wf = true ∧ Holds built.t64 (tableEntry Config.poly64) :=
  ⟨inv_built.wf32, holds_built32, inv_built.wf64, holds_built64⟩

/-- Every clause of the command-word statements is met by some word: legal, reserved bit, misfit, unbuilt, ended. -/
theorem witness_ReadTableCommandWords :
    (built.t32v = true → Holds built.t32 (tableEntry Config.poly32)) ∧
    (built.t64v = true → Holds built.t64 (tableEntry Config.poly64)) ∧
    (∀ T, State.reset.t32v = true → Holds State.reset.t32 T) ∧
    ¬ (2 ^ 8 ≤ (255#64).toNat) ∧ 2 ^ 8 ≤ (256#64).toNat :=
  ⟨fun _ => holds_built32, fun _ => holds_built64, fun _ h => Bool.noConfusion h, by decide, by decide⟩

theorem witness_UpdateCommandWords :
    (built.t32v = true → Holds built.t32 (tableEntry Config.poly32)) ∧
    (built.t64v = true → Holds built.t64 (tableEntry Config.poly64)) ∧
    (∀ T, State.reset.t64v = true → Holds State.reset.t64 T) ∧
    [0#8].length = (1#64).toNat ∧ [0#8].length ≠ (0#64).toNat :=
  ⟨fun _ => holds_built32, fun _ => holds_built64, fun _ h => Bool.noConfusion h, by decide, by decide⟩

theorem witness_ChunkCommandWord :
    (ended.t32v = true → Holds ended.t32 (tableEntry Config.poly32)) ∧
    (ended.t64v = true → Holds ended.t64 (tableEntry Config.poly64)) ∧ ended.eos = true ∧
    (built.t32v = true → Holds built.t32 (tableEntry Config.poly32)) ∧
    (built.t64v = true → Holds built.t64 (tableEntry Config.poly64)) ∧ built.eos = false ∧
    (built32Only.t32v = true → Holds built32Only.t32 (tableEntry Config.poly32)) ∧
    (∀ U, built32Only.t64v = true → Holds built32Only.t64 U) :=
  ⟨fun _ => holds_built32, fun _ => holds_built64, rfl, fun _ => holds_built32, fun _ => holds_built64, rfl,
    fun _ => holds_built32, fun _ h => Bool.noConfusion h⟩

theorem witness_RoundShiftsAndXors : (1#32).getLsbD 0 = true ∧ (0xEDB88320#32).getLsbD 0 = false := by decide

theorem witness_TableStructure : 0 ≤ 7 ∧ 7 ≤ 7 ∧ BitVec.ofNat 8 (2 ^ 0) = 1#8 ∧ BitVec.ofNat 8 (2 ^ 7) = 128#8 := by decide

theorem witness_TableWriteReplacesOneEntry : (0#8 ≠ 255#8) ∧ Memory.wf [(0, 1#32), (255, 2#32)] = true := by decide

/-- A state that satisfies the invariant and steps: on a command, on a refused one, on a reset, on nothing. -/
theorem witness_StepKeepsInvariant :
    (Inv { built with inputs := [.command (encode .sinit)] } ∧
      ∃ t, step { built with inputs := [.command (encode .sinit)] } = .next t) ∧
    (Inv { refusedOnce with inputs := [.command ⟨0#72, []⟩] } ∧
      ∃ t, step { refusedOnce with inputs := [.command ⟨0#72, []⟩] } = .next t) ∧
    (Inv { ended with inputs := [.reset (some (encode .bld32))] } ∧
      ∃ t, step { ended with inputs := [.reset (some (encode .bld32))] } = .next t) ∧
    (Inv ended ∧ ∃ t, step ended = .next t) :=
  ⟨⟨inv_setInputs inv_built _, _, rfl⟩, ⟨inv_setInputs inv_refusedOnce _, _, rfl⟩, ⟨inv_setInputs inv_ended _, _, rfl⟩,
    ⟨inv_ended, _, rfl⟩⟩

theorem witness_InvariantStateNeverStops : Inv { built with inputs := [.command (encode (.upd32 digits))] } :=
  inv_setInputs inv_built _

theorem witness_GoodRunReadFromErr :
    Inv ended ∧ good ended = true ∧ ended.err = 0#4 ∧ Inv refusedOnce ∧ good refusedOnce = false :=
  ⟨inv_ended, rfl, rfl, inv_refusedOnce, rfl⟩

/-- One state and one command for each of the guarded clauses of the access matrix. -/
theorem witness_AccessMatrixWrites :
    (∃ t, exec .rdsr built = .next t) ∧ Instr.rdsr ≠ .bld32 ∧ Instr.rdsr ≠ .bld64 ∧
    ¬ mayWriteAcc32 .rdsr ∧ ¬ mayWriteAcc64 .rdsr ∧ ¬ mayWriteSession (.upd32 [0#8]) ∧
    mayWriteAcc32 (.schunk []) ∧ mayWriteAcc64 .sinit := by
  refine ⟨⟨_, rfl⟩, by decide, by decide, ?_, ?_, ?_, ?_, ?_⟩ <;>
    simp [mayWriteAcc32, mayWriteAcc64, mayWriteSession]

/-- Both clauses: ERR 0 before the fault, and ERR already set. -/
theorem witness_ErrKeepsFirstFault :
    (State.reset.err = 0#4 ∧ ∃ t, step { State.reset with inputs := [.command ⟨0#72, []⟩] } = .next t) ∧
    (refusedOnce.err ≠ 0#4 ∧ ∃ t, step { refusedOnce with inputs := [.command ⟨0#72, []⟩] } = .next t) :=
  ⟨⟨rfl, _, rfl⟩, ⟨by decide, _, rfl⟩⟩

theorem witness_BuiltTablesNeverChange :
    Inv { built with inputs := [.command (encode .bld32)] } ∧
    (∀ a rest, [HostInput.command (encode .bld32)] ≠ .reset a :: rest) ∧
    (∃ t, step { built with inputs := [.command (encode .bld32)] } = .next t) ∧
    built.t32v = true ∧ built.t64v = true :=
  ⟨inv_setInputs inv_built _, fun _ _ h => by simp at h, ⟨_, rfl⟩, rfl, rfl⟩

theorem witness_EndOfStreamIsFinal :
    Inv ended ∧ ended.eos = true ∧ Instr.rdtot ≠ .sinit ∧ (∃ t, exec .rdtot ended = .next t) ∧
    (∃ t, exec .sinit ended = .next t) := ⟨inv_ended, rfl, by decide, ⟨_, rfl⟩, ⟨_, rfl⟩⟩

/-- A chunk counted, at the last TOTAL that does not wrap, and one refused. -/
theorem witness_TotalCountsAcceptedChunks :
    after (exec (.schunk [0#8]) { built with total := 0xFFFFFFFFFFFFFFFE#64 }) (·.total) = some 0xFFFFFFFFFFFFFFFF#64 ∧
    (0xFFFFFFFFFFFFFFFE#64).toNat + [0#8].length < 2 ^ 64 ∧
    after (exec (.schunk [0#8]) { ended with total := 9#64 }) (·.total) = some 9#64 ∧
    after (exec .sinit { ended with total := 9#64 }) (·.total) = some 0#64 ∧
    after (exec .rdtot { ended with total := 9#64 }) (·.total) = some 9#64 := by decide +kernel

/-- Two states that agree on the 32-bit side and differ in ACC64 and TOTAL, both running the same chunk. -/
theorem witness_WidthsDoNotInterfere :
    (after (exec (.schunk [0#8]) built) (·.acc32) = some 0xD202EF8D#32 ∧
      after (exec (.schunk [0#8]) { built with acc64 := 1#64, total := 5#64 }) (·.acc32) = some 0xD202EF8D#32) ∧
    (after (exec (.schunk [0#8]) built) (·.acc64) = some 0x1FADA17364673F59#64 ∧
      after (exec (.schunk [0#8]) { built with acc32 := 1#32 }) (·.acc64) = some 0x1FADA17364673F59#64) := by
  decide +kernel

/-- Chunks of one and of two bytes; with the engines' own commands also an empty one. -/
theorem witness_SessionResultsIndependentOfCut :
    Inv built ∧ built.t32v = true ∧ built.t64v = true ∧
    (∀ c ∈ ([[0x31#8], [0x32#8, 0x33#8]] : List (List Byte)), c ≠ [] ∧ c.length < 2 ^ 64) ∧
    (∀ c ∈ ([[0x31#8], [], [0x32#8, 0x33#8]] : List (List Byte)), c.length < 2 ^ 64) :=
  ⟨inv_built, rfl, rfl, by decide, by decide⟩

end Sys2Proof.Tests
end

section
/-! The family 10_state.md: the ERR latch over every command (R29) and the layout of STATUS (R30). -/

namespace Sys2Proof.Proofs

open Sys2Proof.Machine

/-! ## The two ways a command ends -/

/-- A command that executed, seen from ERR and the interface: the latch and the host's list stay, and there is one more
response, of status OK (R29, R79). -/
def Executed (s t : State) : Prop :=
  t.err = s.err ∧ t.inputs = s.inputs ∧ ∃ v, t.responses = s.responses ++ [⟨0#4, v⟩]

/-- A command that ends does so by executing or by taking one fault (R79, R174). -/
def Ends (s t : State) : Prop := Executed s t ∨ ∃ c, t = s.afterFault c

theorem ends_addResponse {s u : State} (v : Word64) (err : u.err = s.err) (inputs : u.inputs = s.inputs)
    (responses : u.responses = s.responses) : Ends s (u.addResponse ⟨0#4, v⟩) :=
  .inl ⟨err, inputs, v, congrArg (· ++ [_]) responses⟩

theorem ends_afterFault (s : State) (c : FaultCause) : Ends s (s.afterFault c) := .inr ⟨c, rfl⟩

/-- The exhaustive case split over the 14 commands: none of them writes ERR or the host's list but by a fault. -/
theorem exec_ends {i : Instr} {s t : State} (h : exec i s = .next t) : Ends s t := by
  cases i with
  | bld32 =>
    obtain rfl := (exec_bld32_next_iff s t).mp h
    exact ends_addResponse _ rfl rfl rfl
  | bld64 =>
    obtain rfl := (exec_bld64_next_iff s t).mp h
    exact ends_addResponse _ rfl rfl rfl
  | upd32 data =>
    obtain ⟨-, _, -, rfl⟩ | ⟨-, rfl⟩ := (exec_upd32_next_iff s t data).mp h
    · exact ends_addResponse _ rfl rfl rfl
    · exact ends_afterFault s _
  | upd64 data =>
    obtain ⟨-, _, -, rfl⟩ | ⟨-, rfl⟩ := (exec_upd64_next_iff s t data).mp h
    · exact ends_addResponse _ rfl rfl rfl
    · exact ends_afterFault s _
  | lds32 imm =>
    obtain rfl := (exec_lds32_next_iff s t imm).mp h
    exact ends_addResponse _ rfl rfl rfl
  | lds64 imm =>
    obtain rfl := (exec_lds64_next_iff s t imm).mp h
    exact ends_addResponse _ rfl rfl rfl
  | rds32 =>
    obtain rfl := (exec_rds32_next_iff s t).mp h
    exact ends_addResponse _ rfl rfl rfl
  | rds64 =>
    obtain rfl := (exec_rds64_next_iff s t).mp h
    exact ends_addResponse _ rfl rfl rfl
  | rdt32 idx =>
    obtain ⟨-, _, -, rfl⟩ | ⟨-, rfl⟩ := (exec_rdt32_next_iff s t idx).mp h
    · exact ends_addResponse _ rfl rfl rfl
    · exact ends_afterFault s _
  | rdt64 idx =>
    obtain ⟨-, _, -, rfl⟩ | ⟨-, rfl⟩ := (exec_rdt64_next_iff s t idx).mp h
    · exact ends_addResponse _ rfl rfl rfl
    · exact ends_afterFault s _
  | sinit =>
    obtain rfl := (exec_sinit_next_iff s t).mp h
    exact ends_addResponse _ rfl rfl rfl
  | schunk data =>
    obtain ⟨-, -, -, rfl⟩ | ⟨-, -, -, _, _, -, -, rfl⟩ | ⟨-, -, rfl⟩ | ⟨-, rfl⟩ := (exec_schunk_next_iff s t data).mp h
    · exact ends_addResponse _ rfl rfl rfl
    · exact ends_addResponse _ rfl rfl rfl
    · exact ends_afterFault s _
    · exact ends_afterFault s _
  | rdtot =>
    obtain rfl := (exec_rdtot_next_iff s t).mp h
    exact ends_addResponse _ rfl rfl rfl
  | rdsr =>
    obtain rfl := (exec_rdsr_next_iff s t).mp h
    exact ends_addResponse _ rfl rfl rfl

theorem transact_ends {t : Transaction} {s s' : State} (h : transact t s = .next s') : Ends s s' := by
  unfold transact at h
  split at h
  next c _ => exact .inr ⟨c, (raiseFault_next_iff s s' c).mp h⟩
  next => exact exec_ends h

/-- A step on a command takes it off the host's list and runs its transaction. -/
theorem step_command {s : State} {t : Transaction} {rest : List HostInput} (h : s.inputs = .command t :: rest) :
    step s = transact t (s.setInputs rest) := by
  rw [step_eq_takeInput, takeInput, h]

/-! ## The ERR latch -/

theorem latchErr_statusOk (err : BitVec 4) : latchErr err 0#4 = err := by
  by_cases h : err = 0#4
  · rw [h, latchErr_zero]
  · exact latchErr_of_ne h _

/-- However a command ends, ERR latches the status of its one response: R29 in one equation, since latching OK keeps
ERR. -/
theorem Ends.latches_status {s t : State} (h : Ends s t) :
    ∃ r, t.responses = s.responses ++ [r] ∧ t.err = latchErr s.err r.status := by
  obtain ⟨err, -, v, responses⟩ | ⟨c, rfl⟩ := h
  · exact ⟨_, responses, err.trans (latchErr_statusOk _).symm⟩
  · exact ⟨_, s.responses_afterFault c, s.err_afterFault c⟩

/-- Settles O46: ERR latches the status of every command's response, and the latch keeps a value other than 0. -/
theorem errKeepsFirstFault : Obligations.ErrKeepsFirstFault := by
  intro s s' t rest hin hstep
  rw [step_command hin] at hstep
  obtain ⟨r, responses, err⟩ := (transact_ends hstep).latches_status
  rw [State.err_setInputs] at err
  constructor
  · intro h
    rw [err, latchErr_of_ne h]
  · intro h
    exact ⟨r, responses, by rw [err, h, latchErr_zero]⟩

/-! ## The STATUS view -/

/-- Bit `k` of STATUS, by the piece of the concatenation it lies in (R30). -/
theorem getLsbD_statusView (s : State) (k : Nat) :
    (statusView s).getLsbD k =
      if k = 0 then s.t32v else if k = 1 then s.t64v else if k = 2 then s.eos
      else if k = 3 then false else s.err.getLsbD (k - 4) := by
  change BitVec.getLsbD (w := 4 + 1 + 1 + 1 + 1) _ k = _
  simp only [statusView, BitVec.getLsbD_append]
  rcases k with _ | _ | _ | _ | k <;> simp

/-- Settles O47: each field of R30 is one piece of the concatenation, found by its place. -/
theorem statusLayout : Obligations.StatusLayout := by
  intro s
  refine ⟨getLsbD_statusView s 0, getLsbD_statusView s 1, getLsbD_statusView s 2, getLsbD_statusView s 3, ?_⟩
  ext k hk
  simp (disch := omega) only [BitVec.getElem_extractLsb', getLsbD_statusView, if_neg, Nat.add_sub_cancel_left]
  exact BitVec.getLsbD_eq_getElem hk

end Sys2Proof.Proofs
end

section
/-! The family 20_memory.md: what a write to a table memory changes and what it leaves (R51, R52). -/

namespace Sys2Proof.Proofs

open Sys2Proof.Machine

/-- Settles O39: the read-after-write law at the written index, the frame law at every other one, and the law that a
write keeps the canonical form. -/
theorem tableWriteReplacesOneEntry : Obligations.TableWriteReplacesOneEntry := by
  intro w m i j v
  exact ⟨m.read_write_same i v, m.read_write_other v, m.wf_write i v⟩

end Sys2Proof.Proofs
end

section
/-! The family 30_encoding.md: which command words are illegal (R77) and which legal ones are refused for their data
(R81). The rows of the opcode map by `op` and operand bits (`splitRows`) are compared with the spec's own terms once;
both statements follow from that. -/

namespace Sys2Proof.Proofs

open Sys2Proof.Machine Sys2Proof.Statements

/-! ## Illegal words -/

/-- The two spellings of R77 (a): by major and minor code, and by the values of the opcode map. -/
theorem illegalOp_iff_not_mem_rows (op : BitVec 8) : illegalOp op ↔ op ∉ splitRows.map (·.2.1) := by
  have bound := op.isLt
  simp only [illegalOp, splitRows, List.map_cons, List.map_nil, List.mem_cons, List.not_mem_nil, or_false,
    BitVec.toNat_eq, BitVec.toNat_ofNat]
  omega

/-- The number of operand bits tells the formats with reserved bits apart: N has none, I has 8, S32 has 32, and
the others have all 64 (R72). -/
theorem operandBits_of_mem_splitRows : ∀ x ∈ splitRows,
    (x.2.1 ∈ [0x10#8, 0x11#8, 0x40#8, 0x41#8, 0x60#8, 0x62#8, 0x63#8] ↔ x.2.2 = 0) ∧
    (x.2.1 = 0x30#8 ↔ x.2.2 = 32) ∧ (x.2.1 ∈ [0x50#8, 0x51#8] ↔ x.2.2 = 8) ∧
    (x.2.2 = 0 ∨ x.2.2 = 32 ∨ x.2.2 = 8 ∨ x.2.2 = 64) := by decide

/-- In a row's word a reserved bit is 1 exactly when `arg` does not fit the operand bits (R77 (b)). -/
theorem reservedBitSet_iff_of_mem_splitRows {x : Opcode × BitVec 8 × Nat} (hx : x ∈ splitRows) (arg : Word64) :
    reservedBitSet x.2.1 arg ↔ 2 ^ x.2.2 ≤ arg.toNat := by
  obtain ⟨noOperand, imm32, idx, bits⟩ := operandBits_of_mem_splitRows x hx
  have nonzero : arg ≠ 0#64 ↔ 1 ≤ arg.toNat := by rw [Ne, ← toNat_eq_zero_iff]; omega
  have bound := arg.isLt
  rw [reservedBitSet, noOperand, imm32, idx, nonzero]
  rcases bits with h | h | h | h <;> rw [h] <;> omega

/-- The decoder finds no row exactly for the words R77 calls illegal. -/
theorem findOpcode_eq_none_iff_illegalWord (op : BitVec 8) (arg : Word64) :
    findOpcode (op ++ arg) = none ↔ illegalWord op arg := by
  calc findOpcode (op ++ arg) = none
    _ ↔ ∀ x ∈ splitRows, op = x.2.1 → 2 ^ x.2.2 ≤ arg.toNat := by
      simp [findOpcode_append]
    _ ↔ ∀ x ∈ splitRows, op = x.2.1 → reservedBitSet op arg := by
      refine forall₂_congr fun x hx => forall_congr' ?_
      rintro rfl
      exact (reservedBitSet_iff_of_mem_splitRows hx arg).symm
    _ ↔ (op ∈ splitRows.map (·.2.1) → reservedBitSet op arg) := by
      simp only [List.mem_map, forall_exists_index, and_imp, @eq_comm _ op]
    _ ↔ illegalWord op arg := by
      rw [illegalWord, illegalOp_iff_not_mem_rows, imp_iff_not_or]

theorem decode_eq_illegalCommand_iff (op : BitVec 8) (arg : Word64) (data : List Byte) :
    decode ⟨op ++ arg, data⟩ = .error .illegalCommand ↔ illegalWord op arg := by
  rw [decode_eq_error_iff, ← findOpcode_eq_none_iff_illegalWord]
  simp

/-- A transaction the decoder refuses leaves exactly the refusal's state (R174). -/
theorem step_issued_of_decode_error {op : BitVec 8} {arg : Word64} {data : List Byte} {c : FaultCause}
    (h : decode ⟨op ++ arg, data⟩ = .error c) (rest : List HostInput) (s : State) :
    step (issued op arg data rest s) = .next (refused (faultCode c) rest s) := by
  rw [step_command rfl, transact, h]
  rfl

/-- Settles O3: a word is illegal exactly when the decoder finds no row for it, and the refusal leaves `refused`. -/
theorem illegalCommandExactly : Obligations.IllegalCommandExactly := by
  refine ⟨decode_eq_illegalCommand_iff, illegalOp_iff_not_mem_rows, ?_, .inl (by decide), .inl (by decide)⟩
  intro op arg data rest s illegal
  exact step_issued_of_decode_error ((decode_eq_illegalCommand_iff op arg data).mpr illegal) rest s

/-! ## Data that does not fit -/

/-- The row found for a word is one of the word's own `op`. -/
theorem mem_splitRows_of_findOpcode {op : BitVec 8} {arg : Word64} {o : Opcode}
    (h : findOpcode (op ++ arg) = some o) : ∃ n, (o, op, n) ∈ splitRows := by
  rw [findOpcode_append, Option.map_eq_some_iff] at h
  obtain ⟨⟨o, q, n⟩, found, rfl⟩ := h
  obtain ⟨rfl, -⟩ : op = q ∧ _ := by simpa using List.find?_some found
  exact ⟨n, List.mem_of_find?_eq_some found⟩

/-- The three values of `op` whose command has format L (R72, R76). -/
theorem formatOf_eq_l_iff_of_mem_splitRows : ∀ x ∈ splitRows,
    (formatOf x.1 = .l ↔ x.2.1 ∈ [0x20#8, 0x21#8, 0x61#8]) := by decide

theorem dataFits_eq_false_iff (f : Format) (t : Transaction) :
    dataFits f t = false ↔ if f = .l then t.data.length ≠ (argOf t.cw).toNat else t.data ≠ [] := by
  cases f <;> simp [dataFits]

/-- Where a row is found, its format's data check fails exactly when R81 is broken. -/
theorem dataFits_eq_false_iff_dataMisfit {op : BitVec 8} {arg : Word64} {o : Opcode}
    (h : findOpcode (op ++ arg) = some o) (data : List Byte) :
    dataFits (formatOf o) ⟨op ++ arg, data⟩ = false ↔ dataMisfit op arg data := by
  obtain ⟨n, row⟩ := mem_splitRows_of_findOpcode h
  rw [dataFits_eq_false_iff, dataMisfit, argOf_append]
  simp only [formatOf_eq_l_iff_of_mem_splitRows _ row]

theorem decode_eq_lengthMismatch_iff (op : BitVec 8) (arg : Word64) (data : List Byte) :
    decode ⟨op ++ arg, data⟩ = .error .lengthMismatch ↔ ¬ illegalWord op arg ∧ dataMisfit op arg data := by
  rw [decode_eq_error_iff, ← findOpcode_eq_none_iff_illegalWord]
  cases h : findOpcode (op ++ arg) with
  | none => simp
  | some o => simp [dataFits_eq_false_iff_dataMisfit h]

/-- Settles O4: a legal word has a row, and the row's data check fails exactly when R81 is broken. -/
theorem lengthMismatchExactly : Obligations.LengthMismatchExactly := by
  refine ⟨decode_eq_lengthMismatch_iff, ?_⟩
  intro op arg data rest s legal misfit
  exact step_issued_of_decode_error ((decode_eq_lengthMismatch_iff op arg data).mpr ⟨legal, misfit⟩) rest s

end Sys2Proof.Proofs
end

section
/-! The family 40_table_builder.md: the round and the structure of the tables (R100, R101, R107, R111), and BLDw and
RDTw from the command word on (R102 to R105). -/

namespace Sys2Proof.Proofs

open Sys2Proof.Machine Sys2Proof.Statements

/-! ## The round -/

section Rounds

variable {w : Nat} {p : BitVec w}

theorem roundW_of_lsb {r : BitVec w} (h : r.getLsbD 0 = true) : roundW p r = (r >>> 1) ^^^ p := if_pos h

theorem roundW_of_not_lsb {r : BitVec w} (h : r.getLsbD 0 = false) : roundW p r = r >>> 1 := by
  rw [roundW, h, if_neg Bool.false_ne_true]

/-- The round without a branch: the polynomial is masked by bit 0 of the register (R101). -/
theorem roundW_eq_mask (p r : BitVec w) :
    roundW p r = (r >>> 1) ^^^ (p &&& (if r.getLsbD 0 then BitVec.allOnes w else 0#w)) := by
  cases h : r.getLsbD 0 with
  | true => simp [roundW_of_lsb h]
  | false => simp [roundW_of_not_lsb h]

/-! ## Linearity (R107 (c), (d)) -/

/-- A round is linear: the shift is, and bit 0 of a sum selects the polynomial as often as the two bits 0 do. -/
theorem roundW_xor (p a b : BitVec w) : roundW p (a ^^^ b) = roundW p a ^^^ roundW p b := by
  have masked : (p &&& if (a ^^^ b).getLsbD 0 then BitVec.allOnes w else 0#w) =
      (p &&& if a.getLsbD 0 then BitVec.allOnes w else 0#w) ^^^
        (p &&& if b.getLsbD 0 then BitVec.allOnes w else 0#w) := by
    rw [BitVec.getLsbD_xor]
    cases a.getLsbD 0 <;> cases b.getLsbD 0 <;> simp
  simp only [roundW_eq_mask, masked, BitVec.ushiftRight_xor_distrib]
  ac_rfl

theorem roundsW_xor (p a b : BitVec w) (n : Nat) : roundsW p n (a ^^^ b) = roundsW p n a ^^^ roundsW p n b := by
  induction n generalizing a b with
  | zero => rfl
  | succ n ih => rw [roundsW_succ, roundW_xor, ih, roundsW_succ, roundsW_succ]

/-- The table is linear in its index, since the zero extension and every round are. -/
theorem tableEntry_xor (p : BitVec w) (i j : Byte) :
    tableEntry p (i ^^^ j) = tableEntry p i ^^^ tableEntry p j := by
  rw [tableEntry, BitVec.setWidth_xor, roundsW_xor]
  rfl

/-- Entry 0 is 0, as for every linear map. -/
theorem tableEntry_zero (p : BitVec w) : tableEntry p 0#8 = 0#w := by
  have double : tableEntry p (0#8 ^^^ 0#8) = 0#w := by rw [tableEntry_xor, BitVec.xor_self]
  simpa using double

/-- By linearity a sum of entries is the entry of the sum of their indices. -/
theorem foldl_xor_tableEntry (p : BitVec w) (ns : List Nat) (i : Byte) :
    ns.foldl (fun x n => x ^^^ tableEntry p (BitVec.ofNat 8 n)) (tableEntry p i) =
      tableEntry p (ns.foldl (fun x n => x ^^^ BitVec.ofNat 8 n) i) :=
  List.foldl_hom (tableEntry p) fun x _ => (tableEntry_xor p x _).symm

/-- The sum of the first `2 n` indices: the two of each pair `2 k`, `2 k + 1` differ in bit 0 only. -/
theorem foldl_xor_range_two_mul (n : Nat) :
    (List.range (2 * n)).foldl (fun x i => x ^^^ BitVec.ofNat 8 i) 0#8 = BitVec.ofNat 8 (n % 2) := by
  induction n with
  | zero => rfl
  | succ n ih =>
    have pair : BitVec.ofNat 8 (2 * n + 1) = BitVec.ofNat 8 (2 * n) ^^^ 1#8 := by
      rw [← Nat.xor_one_of_even (even_two_mul n), BitVec.ofNat_xor]
    have flip : BitVec.ofNat 8 (n % 2) ^^^ 1#8 = BitVec.ofNat 8 ((n + 1) % 2) := by
      rcases Nat.mod_two_eq_zero_or_one n with h | h <;> simp [Nat.add_mod, h]
    rw [Nat.mul_succ, List.range_succ, List.range_succ, List.foldl_append, List.foldl_append, ih]
    simp only [List.foldl_cons, List.foldl_nil, pair]
    rw [BitVec.xor_assoc, ← BitVec.xor_assoc _ _ 1#8, BitVec.xor_self, BitVec.zero_xor, flip]

/-- R107 (d). -/
theorem foldl_xor_all_entries (p : BitVec w) :
    (List.range 256).foldl (fun x n => x ^^^ tableEntry p (BitVec.ofNat 8 n)) 0#w = 0#w := by
  have fold := foldl_xor_tableEntry p (List.range (2 * 128)) 0#8
  rwa [foldl_xor_range_two_mul, tableEntry_zero] at fold

/-! ## The entries at the powers of two (R107 (a), (b)) -/

theorem roundsW_add (p r : BitVec w) (m n : Nat) : roundsW p (m + n) r = roundsW p n (roundsW p m r) := by
  induction m generalizing r with
  | zero => rw [Nat.zero_add, roundsW_zero]
  | succ m ih => rw [Nat.succ_add, roundsW_succ, ih, roundsW_succ]

/-- A single 1 moves down one place in a round. -/
theorem roundW_twoPow_succ (p : BitVec w) (k : Nat) (h : k + 1 < w) :
    roundW p (BitVec.twoPow w (k + 1)) = BitVec.twoPow w k := by
  rw [roundW_of_not_lsb (by simp [BitVec.getLsbD_twoPow])]
  ext i hi
  simp [BitVec.getElem_twoPow, h, Nat.add_comm 1, eq_comm]

/-- A single 1 at place 0 becomes the polynomial. -/
theorem roundW_twoPow_zero (p : BitVec w) (h : 0 < w) : roundW p (BitVec.twoPow w 0) = p := by
  have out : BitVec.twoPow w 0 >>> 1 = 0#w := by
    ext i hi
    simp [Nat.one_add]
  rw [roundW_of_lsb (by simp [h]), out, BitVec.zero_xor]

/-- A single 1 at place `k` is shifted out in `k + 1` rounds and leaves the polynomial. -/
theorem roundsW_twoPow (p : BitVec w) (k : Nat) (h : k < w) : roundsW p (k + 1) (BitVec.twoPow w k) = p := by
  induction k with
  | zero => exact roundW_twoPow_zero p h
  | succ k ih => rw [roundsW_succ, roundW_twoPow_succ p k h, ih (by omega)]

/-- Entry `2^k` at any width that holds a byte: the 1 is shifted out, and `7 - k` rounds are left (R107 (b)). -/
theorem tableEntry_two_pow (p : BitVec w) (byteFits : 8 ≤ w) (k : Nat) (hk : k ≤ 7) :
    tableEntry p (BitVec.ofNat 8 (2 ^ k)) = roundsW p (7 - k) p := by
  have extended : (BitVec.ofNat 8 (2 ^ k)).setWidth w = BitVec.twoPow w k := by
    have one : BitVec.ofNat 8 (2 ^ k) = BitVec.twoPow 8 k := BitVec.eq_of_toNat_eq (BitVec.toNat_twoPow 8 k).symm
    rw [one]
    ext i hi
    simp [BitVec.getElem_twoPow, Nat.lt_succ_of_le hk, eq_comm]
  have split : Config.rounds = (k + 1) + (7 - k) := by rw [Config.rounds]; omega
  rw [tableEntry, extended, split, roundsW_add, roundsW_twoPow p k (by omega)]

end Rounds

/-- Settles O30: the two branches of the round, and the mask that joins them. -/
theorem roundShiftsAndXors : Obligations.RoundShiftsAndXors :=
  fun _ p r => ⟨roundW_of_lsb, roundW_of_not_lsb, roundW_eq_mask p r⟩

/-- Settles O31: a table entry is by definition 8 rounds. -/
theorem tableEntryIsEightRounds : Obligations.TableEntryIsEightRounds := fun _ _ _ => rfl

/-- Settles O33: the four traces are closed computations. -/
theorem roundTraces : Obligations.RoundTraces := by
  unfold Obligations.RoundTraces
  decide

/-- Settles O32: linearity gives the zero entry, the sum rule and the sum of all entries; the entries at the powers of
two follow a single 1 through the rounds. -/
theorem tableStructure : Obligations.TableStructure := by
  refine ⟨fun p q => ⟨tableEntry_zero p, tableEntry_zero q, ?_, ?_, ?_, ?_⟩, fun _ => roundW_xor,
    fun _ => tableEntry_xor, fun _ => foldl_xor_all_entries⟩
  · exact tableEntry_two_pow p (by decide) 7 le_rfl
  · exact tableEntry_two_pow q (by decide) 7 le_rfl
  · exact tableEntry_two_pow p (by decide)
  · exact tableEntry_two_pow q (by decide)

/-! ## A word whose format has no data, from the decoder to the command's meaning -/

theorem dataFits_of_ne_l {f : Format} (h : f ≠ .l) (t : Transaction) : dataFits f t = t.data.isEmpty := by
  cases f with
  | l => exact absurd rfl h
  | n | s32 | s64 | i => rfl

/-- A step on a command word of a format without data, with the decoder's two faults in the order of R173. -/
theorem step_issued_of_row {op : BitVec 8} {arg : Word64} {o : Opcode} {illegal : Prop} [Decidable illegal]
    (row : findOpcode (op ++ arg) = if illegal then none else some o) (noData : formatOf o ≠ .l)
    (data : List Byte) (rest : List HostInput) (s : State) :
    step (issued op arg data rest s) =
      if illegal then .next (refused 1#4 rest s)
      else if data ≠ [] then .next (refused 2#4 rest s)
      else exec (assemble o ⟨op ++ arg, data⟩) (s.setInputs rest) := by
  by_cases h : illegal
  · rw [if_pos h] at row ⊢
    exact step_issued_of_decode_error ((decode_eq_error_iff _ _).mpr (.inl ⟨row, rfl⟩)) rest s
  · rw [if_neg h] at row ⊢
    have fits := dataFits_of_ne_l noData ⟨op ++ arg, data⟩
    cases data with
    | cons b bs =>
      exact step_issued_of_decode_error ((decode_eq_error_iff _ _).mpr (.inr ⟨o, row, fits, rfl⟩)) rest s
    | nil =>
      rw [step_command rfl, transact, (decode_eq_ok_iff _ _).mpr ⟨o, row, fits, rfl⟩]
      rfl

/-! ## The build commands (R102, R103) -/

/-- A build of a table that is already built changes nothing (R106). -/
theorem build_eq_self {w : Nat} {p : BitVec w} {m : Memory w} (wf : m.wf = true) (holds : Holds m (tableEntry p)) :
    m.build p = m :=
  Memory.ext_of_read (m.wf_build p wf) wf fun i => (m.read_build p i).trans (holds i).symm

/-- Settles O21: the word's row and data checks, then the build, whose table is read by `Memory.read_build`. -/
theorem buildCommandWords : Obligations.BuildCommandWords := by
  intro s rest arg data
  have row32 : findOpcode (0x10#8 ++ arg) = if arg ≠ 0#64 then none else some .bld32 := by
    rw [findOpcode_bld32, ite_not]
  have row64 : findOpcode (0x11#8 ++ arg) = if arg ≠ 0#64 then none else some .bld64 := by
    rw [findOpcode_bld64, ite_not]
  constructor
  · exact ⟨s.t32.build Config.poly32, s.t32.read_build _, build_eq_self,
      step_issued_of_row row32 (by decide) data rest s⟩
  · exact ⟨s.t64.build Config.poly64, s.t64.read_build _, build_eq_self,
      step_issued_of_row row64 (by decide) data rest s⟩

/-! ## The read commands (R104, R105) -/

/-- RDT32 after its decoding: the unbuilt table first, then the entry. -/
theorem exec_rdt32_of_holds {s : State} {T : Byte → Word32} (h : s.t32v = true → Holds s.t32 T) (idx : Byte)
    (rest : List HostInput) :
    exec (.rdt32 idx) (s.setInputs rest) =
      if s.t32v = false then .next (refused 3#4 rest s)
      else .next (answered (BitVec.ofNat 64 (T idx).toNat) rest s) := by
  cases built : s.t32v with
  | false => exact (exec_rdt32_next_iff _ _ idx).mpr (.inr ⟨built, rfl⟩)
  | true =>
    rw [BitVec.ofNat_toNat]
    exact (exec_rdt32_next_iff _ _ idx).mpr (.inl ⟨built, T idx, h built idx, rfl⟩)

/-- RDT64 after its decoding: the unbuilt table first, then the entry. -/
theorem exec_rdt64_of_holds {s : State} {U : Byte → Word64} (h : s.t64v = true → Holds s.t64 U) (idx : Byte)
    (rest : List HostInput) :
    exec (.rdt64 idx) (s.setInputs rest) =
      if s.t64v = false then .next (refused 3#4 rest s)
      else .next (answered (U idx) rest s) := by
  cases built : s.t64v with
  | false => exact (exec_rdt64_next_iff _ _ idx).mpr (.inr ⟨built, rfl⟩)
  | true => exact (exec_rdt64_next_iff _ _ idx).mpr (.inl ⟨built, U idx, h built idx, rfl⟩)

/-- Settles O22: the word's row and data checks, then the command's own, then the entry. -/
theorem readTableCommandWords : Obligations.ReadTableCommandWords := by
  intro s rest arg data
  have row32 : findOpcode (0x50#8 ++ arg) = if 2 ^ 8 ≤ arg.toNat then none else some .rdt32 := by
    simp only [findOpcode_rdt32, ← Nat.not_lt, ite_not]
  have row64 : findOpcode (0x51#8 ++ arg) = if 2 ^ 8 ≤ arg.toNat then none else some .rdt64 := by
    simp only [findOpcode_rdt64, ← Nat.not_lt, ite_not]
  constructor
  · intro T h
    rw [step_issued_of_row row32 (by decide), assemble, idxOf_append, exec_rdt32_of_holds h]
  · intro U h
    rw [step_issued_of_row row64 (by decide), assemble, idxOf_append, exec_rdt64_of_holds h]

end Sys2Proof.Proofs
end

section
/-! The family 41_checksum_engine.md: the update function (R120, R121, R129, R130, R134), and UPDw, LDSw and RDSw from
the command word on (R122 to R127). -/

namespace Sys2Proof.Proofs

open Sys2Proof.Machine Sys2Proof.Statements

/-! ## The update function -/

section Update

variable {w : Nat} (t : Byte → BitVec w)

/-- The index taken from the register is its value modulo `2^8` (R121). -/
theorem engineIndex_eq_xor_ofNat (s : BitVec w) (b : Byte) : engineIndex s b = b ^^^ BitVec.ofNat 8 s.toNat := rfl

@[simp] theorem updateW_nil (state : BitVec w) : updateW t [] state = state := BitVec.not_not

/-- Between two chunks the complement at the end of the first meets the one at the start of the second, so the register
runs through `A ++ B` as in one chunk (R130). -/
theorem updateW_append (A B : List Byte) (state : BitVec w) :
    updateW t (A ++ B) state = updateW t B (updateW t A state) := by
  simp only [updateW, List.foldl_append, BitVec.not_not]

theorem updateW_cons (b : Byte) (bytes : List Byte) (state : BitVec w) :
    updateW t (b :: bytes) state = updateW t bytes (~~~ (stepW t (~~~ state) b)) :=
  updateW_append t [b] bytes state

theorem updateW_flatten (chunks : List (List Byte)) (state : BitVec w) :
    updateW t chunks.flatten state = chunks.foldl (fun st c => updateW t c st) state := by
  induction chunks generalizing state with
  | nil => exact updateW_nil t state
  | cons c chunks ih => rw [List.flatten_cons, updateW_append, ih, List.foldl_cons]

end Update

/-- Settles O34: the index is the low byte of the register, and the first byte is folded before the others. -/
theorem updateFoldsBytesInOrder : Obligations.UpdateFoldsBytesInOrder := by
  intro w t s b bytes
  exact ⟨by rw [stepW, engineIndex_eq_xor_ofNat], rfl, updateW_cons t b bytes s⟩

/-- Settles O35: the two complements around the empty fold cancel. -/
theorem emptyUpdateIsIdentity : Obligations.EmptyUpdateIsIdentity :=
  fun _ t _ _ => ⟨updateW_nil t _, updateW_nil t _⟩

/-- Settles O36: two chunks by the append law, any list of chunks by induction over it. -/
theorem chunkingIndependence : Obligations.ChunkingIndependence :=
  fun _ t state => ⟨fun A B => (updateW_append t A B state).symm, fun chunks => (updateW_flatten t chunks state).symm⟩

/-- Settles O38: the empty input by the identity law, the nine digits by closed computations. -/
theorem knownResults : Obligations.KnownResults :=
  ⟨updateW_nil _ _, updateW_nil _ _, by decide +kernel, by decide +kernel⟩

/-! ## A word of format L, from the decoder to the command's meaning -/

/-- A step on a command word of format L, whose every `len` is legal: the length check, then the command. -/
theorem step_issued_of_chunkRow {op : BitVec 8} {len : Word64} {o : Opcode}
    (row : findOpcode (op ++ len) = some o) (chunk : formatOf o = .l)
    (data : List Byte) (rest : List HostInput) (s : State) :
    step (issued op len data rest s) =
      if data.length ≠ len.toNat then .next (refused 2#4 rest s)
      else exec (assemble o ⟨op ++ len, data⟩) (s.setInputs rest) := by
  have misfit : dataFits (formatOf o) ⟨op ++ len, data⟩ = false ↔ data.length ≠ len.toNat := by
    rw [dataFits_eq_false_iff, if_pos chunk, argOf_append]
  by_cases h : data.length ≠ len.toNat
  · rw [if_pos h]
    exact step_issued_of_decode_error ((decode_eq_error_iff _ _).mpr (.inr ⟨o, row, misfit.mpr h, rfl⟩)) rest s
  · have fits := eq_true_of_ne_false (mt misfit.mp h)
    rw [if_neg h, step_command rfl, transact, (decode_eq_ok_iff _ _).mpr ⟨o, row, fits, rfl⟩]
    rfl

/-! ## The update commands (R122, R123) -/

/-- UPD32 after its decoding: the unbuilt table first, then the fold. -/
theorem exec_upd32_of_holds {s : State} {T : Byte → Word32} (h : s.t32v = true → Holds s.t32 T) (data : List Byte)
    (rest : List HostInput) :
    exec (.upd32 data) (s.setInputs rest) =
      if s.t32v = false then .next (refused 3#4 rest s)
      else .next { s with
        acc32 := updateW T data s.acc32
        inputs := rest
        responses := s.responses ++ [⟨0#4, BitVec.ofNat 64 (updateW T data s.acc32).toNat⟩] } := by
  by_cases unbuilt : s.t32v = false
  · rw [if_pos unbuilt]
    exact (exec_upd32_next_iff _ _ data).mpr (.inr ⟨unbuilt, rfl⟩)
  · have built := eq_true_of_ne_false unbuilt
    have folds := Memory.update_of_read s.t32 T (h built) data s.acc32
    rw [if_neg unbuilt, BitVec.ofNat_toNat]
    exact (exec_upd32_next_iff _ _ data).mpr (.inl ⟨built, _, folds, rfl⟩)

/-- UPD64 after its decoding: the unbuilt table first, then the fold. -/
theorem exec_upd64_of_holds {s : State} {U : Byte → Word64} (h : s.t64v = true → Holds s.t64 U) (data : List Byte)
    (rest : List HostInput) :
    exec (.upd64 data) (s.setInputs rest) =
      if s.t64v = false then .next (refused 3#4 rest s)
      else .next { s with
        acc64 := updateW U data s.acc64
        inputs := rest
        responses := s.responses ++ [⟨0#4, updateW U data s.acc64⟩] } := by
  by_cases unbuilt : s.t64v = false
  · rw [if_pos unbuilt]
    exact (exec_upd64_next_iff _ _ data).mpr (.inr ⟨unbuilt, rfl⟩)
  · have built := eq_true_of_ne_false unbuilt
    have folds := Memory.update_of_read s.t64 U (h built) data s.acc64
    rw [if_neg unbuilt]
    exact (exec_upd64_next_iff _ _ data).mpr (.inl ⟨built, _, folds, rfl⟩)

/-- Settles O23: the word's length check, then the command's own, then the fold. -/
theorem updateCommandWords : Obligations.UpdateCommandWords := by
  intro s rest len data
  constructor
  · intro T h
    rw [step_issued_of_chunkRow (findOpcode_upd32 len) rfl, assemble, exec_upd32_of_holds h]
  · intro U h
    rw [step_issued_of_chunkRow (findOpcode_upd64 len) rfl, assemble, exec_upd64_of_holds h]

/-! ## The load and read commands (R124 to R127) -/

/-- Settles O24: the word's row and data checks; the operand then stands in the word as it is written. No word of LDS64
is illegal (R72), so its first check is the one for `False`. -/
theorem loadStateCommandWords : Obligations.LoadStateCommandWords := by
  intro s rest arg data
  have row32 : findOpcode (0x30#8 ++ arg) = if 2 ^ 32 ≤ arg.toNat then none else some .lds32 := by
    simp only [findOpcode_lds32, ← Nat.not_lt, ite_not]
  have row64 : findOpcode (0x31#8 ++ arg) = if False then none else some .lds64 := by
    rw [findOpcode_lds64, if_neg not_false]
  constructor
  · rw [step_issued_of_row row32 (by decide), assemble, imm32Of_append]
    rfl
  · rw [step_issued_of_row row64 (by decide), if_neg not_false, assemble, argOf_append]
    rfl

/-- Settles O25: the word's row and data checks, then the register as it stands. -/
theorem readStateCommandWords : Obligations.ReadStateCommandWords := by
  intro s rest arg data
  have row32 : findOpcode (0x40#8 ++ arg) = if arg ≠ 0#64 then none else some .rds32 := by
    rw [findOpcode_rds32, ite_not]
  have row64 : findOpcode (0x41#8 ++ arg) = if arg ≠ 0#64 then none else some .rds64 := by
    rw [findOpcode_rds64, ite_not]
  constructor
  · rw [BitVec.ofNat_toNat]
    exact step_issued_of_row row32 (by decide) data rest s
  · exact step_issued_of_row row64 (by decide) data rest s

end Sys2Proof.Proofs
end

section
/-! The family 42_session_controller.md: SINIT, SCHUNK, RDTOT and RDSR from the command word on (R152 to R155), the end
of stream (R158), and the results of a whole session, however its stream is cut (R157). -/

namespace Sys2Proof.Proofs

open Sys2Proof.Machine Sys2Proof.Statements

/-! ## SINIT, RDTOT and RDSR (R152, R154, R155) -/

/-- Settles O26: the word's row and data checks, then the four registers. -/
theorem sessionInitCommandWord : Obligations.SessionInitCommandWord := by
  intro s rest arg data
  have row : findOpcode (0x60#8 ++ arg) = if arg ≠ 0#64 then none else some .sinit := by
    rw [findOpcode_sinit, ite_not]
  exact step_issued_of_row row (by decide) data rest s

/-- Settles O28: the word's row and data checks, then TOTAL as it stands. -/
theorem readTotalCommandWord : Obligations.ReadTotalCommandWord := by
  intro s rest arg data
  have row : findOpcode (0x62#8 ++ arg) = if arg ≠ 0#64 then none else some .rdtot := by
    rw [findOpcode_rdtot, ite_not]
  exact step_issued_of_row row (by decide) data rest s

/-- A concatenation read as a number. -/
theorem toNat_append_eq_add {m n : Nat} (x : BitVec m) (y : BitVec n) :
    (x ++ y).toNat = x.toNat * 2 ^ n + y.toNat := by
  rw [BitVec.toNat_append, ← Nat.shiftLeft_add_eq_or_of_lt y.isLt, Nat.shiftLeft_eq]

/-- STATUS read as a number: each field of R30 times the weight of its place. -/
theorem toNat_statusView (s : State) :
    (statusView s).toNat = 16 * s.err.toNat + 4 * s.eos.toNat + 2 * s.t64v.toNat + s.t32v.toNat := by
  change BitVec.toNat (w := 4 + 1 + 1 + 1 + 1) _ = _
  simp only [statusView, toNat_append_eq_add, BitVec.toNat_ofBool, BitVec.toNat_zero]
  omega

/-- Settles O29: the word's row and data checks, then STATUS as a number, zero-extended. -/
theorem readStatusCommandWord : Obligations.ReadStatusCommandWord := by
  intro s rest arg data
  have row : findOpcode (0x63#8 ++ arg) = if arg ≠ 0#64 then none else some .rdsr := by
    rw [findOpcode_rdsr, ite_not]
  rw [← toNat_statusView, BitVec.ofNat_toNat]
  exact step_issued_of_row row (by decide) data rest s

/-! ## SCHUNK (R153) -/

/-- SCHUNK after its decoding: an unbuilt table first, then the ended session, then the end of stream or the two folds
and the counter. -/
theorem exec_schunk_of_holds {s : State} {T : Byte → Word32} {U : Byte → Word64} (h32 : s.t32v = true → Holds s.t32 T)
    (h64 : s.t64v = true → Holds s.t64 U) (data : List Byte) (rest : List HostInput) :
    exec (.schunk data) (s.setInputs rest) =
      if s.t32v = false ∨ s.t64v = false then .next (refused 3#4 rest s)
      else if s.eos = true then .next (refused 4#4 rest s)
      else if data = [] then .next { s with
        eos := true, inputs := rest, responses := s.responses ++ [⟨0#4, s.total⟩] }
      else .next { s with
        acc32 := updateW T data s.acc32
        acc64 := updateW U data s.acc64
        total := s.total + BitVec.ofNat 64 data.length
        inputs := rest
        responses := s.responses ++ [⟨0#4, s.total + BitVec.ofNat 64 data.length⟩] } := by
  by_cases unbuilt : s.t32v = false ∨ s.t64v = false
  · rw [if_pos unbuilt]
    exact (exec_schunk_next_iff _ _ data).mpr (.inr (.inr (.inr ⟨Bool.and_eq_false_iff.mpr unbuilt, rfl⟩)))
  rw [if_neg unbuilt]
  obtain ⟨built32, built64⟩ : s.t32v = true ∧ s.t64v = true := by simpa using unbuilt
  have built : (s.t32v && s.t64v) = true := by rw [built32, built64, Bool.and_true]
  by_cases ended : s.eos = true
  · rw [if_pos ended]
    exact (exec_schunk_next_iff _ _ data).mpr (.inr (.inr (.inl ⟨built, ended, rfl⟩)))
  have isOpen := eq_false_of_ne_true ended
  rw [if_neg ended]
  by_cases empty : data = []
  · rw [if_pos empty]
    exact (exec_schunk_next_iff _ _ data).mpr (.inl ⟨built, isOpen, empty, rfl⟩)
  · have folds32 := Memory.update_of_read s.t32 T (h32 built32) data s.acc32
    have folds64 := Memory.update_of_read s.t64 U (h64 built64) data s.acc64
    rw [if_neg empty]
    exact (exec_schunk_next_iff _ _ data).mpr (.inr (.inl ⟨built, isOpen, empty, _, _, folds32, folds64, rfl⟩))

/-- Settles O27: the word's length check, then the command's own; `len` is then the number of bytes, 0 only for the
empty chunk. -/
theorem chunkCommandWord : Obligations.ChunkCommandWord := by
  intro s rest len data T U h32 h64
  rw [step_issued_of_chunkRow (findOpcode_schunk len) rfl, assemble, exec_schunk_of_holds h32 h64]
  by_cases misfit : data.length ≠ len.toNat
  · rw [if_pos misfit, if_pos misfit]
  · have counted := not_not.mp misfit
    have empty : data = [] ↔ len = 0#64 := by rw [← List.length_eq_zero_iff, counted, toNat_eq_zero_iff]
    rw [counted, BitVec.ofNat_toNat, BitVec.setWidth_eq]
    simp only [empty]

/-! ## The end of stream (R158) -/

/-- The frame of TOTAL and EOS: only SINIT and SCHUNK write them (R37). -/
theorem exec_keeps_session {i : Instr} {s t : State} (h : exec i s = .next t) (frame : ¬ mayWriteSession i) :
    t.total = s.total ∧ t.eos = s.eos := by
  cases i with
  | bld32 => exact (exec_bld32_next_iff s t).mp h ▸ ⟨rfl, rfl⟩
  | bld64 => exact (exec_bld64_next_iff s t).mp h ▸ ⟨rfl, rfl⟩
  | upd32 data => obtain ⟨-, _, -, rfl⟩ | ⟨-, rfl⟩ := (exec_upd32_next_iff s t data).mp h <;> exact ⟨rfl, rfl⟩
  | upd64 data => obtain ⟨-, _, -, rfl⟩ | ⟨-, rfl⟩ := (exec_upd64_next_iff s t data).mp h <;> exact ⟨rfl, rfl⟩
  | lds32 imm => exact (exec_lds32_next_iff s t imm).mp h ▸ ⟨rfl, rfl⟩
  | lds64 imm => exact (exec_lds64_next_iff s t imm).mp h ▸ ⟨rfl, rfl⟩
  | rds32 => exact (exec_rds32_next_iff s t).mp h ▸ ⟨rfl, rfl⟩
  | rds64 => exact (exec_rds64_next_iff s t).mp h ▸ ⟨rfl, rfl⟩
  | rdt32 idx => obtain ⟨-, _, -, rfl⟩ | ⟨-, rfl⟩ := (exec_rdt32_next_iff s t idx).mp h <;> exact ⟨rfl, rfl⟩
  | rdt64 idx => obtain ⟨-, _, -, rfl⟩ | ⟨-, rfl⟩ := (exec_rdt64_next_iff s t idx).mp h <;> exact ⟨rfl, rfl⟩
  | sinit => exact absurd (.inl rfl) frame
  | schunk data => exact absurd (.inr ⟨data, rfl⟩) frame
  | rdtot => exact (exec_rdtot_next_iff s t).mp h ▸ ⟨rfl, rfl⟩
  | rdsr => exact (exec_rdsr_next_iff s t).mp h ▸ ⟨rfl, rfl⟩

/-- No outcome of SCHUNK clears EOS. -/
theorem exec_schunk_keeps_eos {data : List Byte} {s t : State} (h : exec (.schunk data) s = .next t)
    (ended : s.eos = true) : t.eos = true := by
  obtain ⟨-, -, -, rfl⟩ | ⟨-, -, -, _, _, -, -, rfl⟩ | ⟨-, -, rfl⟩ | ⟨-, rfl⟩ := (exec_schunk_next_iff s t data).mp h
  · rfl
  · exact ended
  · exact ended
  · exact ended

/-- Settles O49: the invariant's tables are both built where EOS is 1, so SCHUNK's one check left is the one on EOS;
EOS is written by no command but SCHUNK, which never clears it, and SINIT. -/
theorem endOfStreamIsFinal : Obligations.EndOfStreamIsFinal := by
  refine ⟨fun s data inv ended => ?_, fun i s s' ended notInit h => ?_, fun s s' _ h => ?_⟩
  · obtain ⟨built32, built64⟩ := inv.ended ended
    have result := exec_schunk_of_holds inv.built32 inv.built64 data s.inputs
    rwa [if_neg (by simp [built32, built64]), if_pos ended] at result
  · by_cases writes : mayWriteSession i
    · obtain rfl | ⟨data, rfl⟩ := writes
      · exact absurd rfl notInit
      · exact exec_schunk_keeps_eos h ended
    · exact (exec_keeps_session h writes).2.trans ended
  · obtain rfl := (exec_sinit_next_iff s s').mp h
    rfl

/-! ## Runs -/

theorem run_succ_of_step {s t : State} (h : step s = .next t) (n : Nat) : run (n + 1) s = run n t := by
  rw [run, h]

/-- A run goes on from where a shorter one ended. -/
theorem run_add_of_run {m : Nat} {s t : State} (h : run m s = .next t) (n : Nat) : run (m + n) s = run n t := by
  induction m generalizing s with
  | zero =>
    cases h
    rw [Nat.zero_add]
  | succ m ih =>
    rw [Nat.succ_add]
    rw [run] at h ⊢
    cases next : step s with
    | next u =>
      rw [next] at h
      exact ih h
    | fault r =>
      rw [next] at h
      cases h
    | refused r =>
      rw [next] at h
      cases h

/-! ## A stream delivered chunk by chunk (R157) -/

/-- An open session whose tables are both built. -/
structure OpenSession (s : State) : Prop where
  built32 : s.t32v = true
  built64 : s.t64v = true
  holds32 : Holds s.t32 (tableEntry Config.poly32)
  holds64 : Holds s.t64 (tableEntry Config.poly64)
  isOpen : s.eos = false

/-- `s` after both engines have folded `bytes`, TOTAL has counted `counted` bytes, and the responses are `rs`. -/
def delivered (bytes : List Byte) (counted : Nat) (rs : List Response) (s : State) : State :=
  { s with
    acc32 := updateW (tableEntry Config.poly32) bytes s.acc32
    acc64 := updateW (tableEntry Config.poly64) bytes s.acc64
    total := s.total + BitVec.ofNat 64 counted
    responses := rs }

theorem delivered_nil (s : State) : delivered [] 0 s.responses s = s := by
  simp only [delivered, updateW_nil, BitVec.add_zero]

/-- Two deliveries are one of the concatenation (R130). -/
theorem delivered_delivered (A B : List Byte) (m n : Nat) (rs rs' : List Response) (s : State) :
    delivered B n rs' (delivered A m rs s) = delivered (A ++ B) (m + n) rs' s := by
  simp only [delivered, updateW_append, BitVec.ofNat_add, BitVec.add_assoc]

theorem OpenSession.delivered {s : State} (h : OpenSession s) (bytes : List Byte) (counted : Nat)
    (rs : List Response) : OpenSession (delivered bytes counted rs s) :=
  ⟨h.built32, h.built64, h.holds32, h.holds64, h.isOpen⟩

/-- The inputs `cmds c` deliver the chunk `c` to any open session in `k` steps, and TOTAL counts `count c` bytes. -/
def Delivers (k : Nat) (cmds : List Byte → List HostInput) (count : List Byte → Nat) (c : List Byte) : Prop :=
  ∀ (s : State) (rest : List HostInput), OpenSession s →
    ∃ rs, run k (s.setInputs (cmds c ++ rest)) = .next ((delivered c (count c) rs s).setInputs rest)

/-- The induction over the chunks: where each chunk is delivered, the concatenation of all is. -/
theorem run_delivers_chunks {k : Nat} {cmds : List Byte → List HostInput} {count : List Byte → Nat}
    {chunks : List (List Byte)} (each : ∀ c ∈ chunks, Delivers k cmds count c) {s : State} (h : OpenSession s)
    (rest : List HostInput) :
    ∃ rs, run (k * chunks.length) (s.setInputs (chunks.flatMap cmds ++ rest)) =
      .next ((delivered chunks.flatten (chunks.map count).sum rs s).setInputs rest) := by
  induction chunks generalizing s with
  | nil =>
    refine ⟨s.responses, ?_⟩
    rw [List.flatten_nil, List.map_nil, List.sum_nil, delivered_nil]
    rfl
  | cons c chunks ih =>
    obtain ⟨first, others⟩ := List.forall_mem_cons.mp each
    obtain ⟨rs, head⟩ := first s (chunks.flatMap cmds ++ rest) h
    obtain ⟨rs', tail⟩ := ih others (h.delivered c (count c) rs)
    refine ⟨rs', ?_⟩
    rw [List.length_cons, Nat.mul_succ, Nat.add_comm, List.flatMap_cons, List.append_assoc, run_add_of_run head, tail,
      delivered_delivered, List.flatten_cons, List.map_cons, List.sum_cons]

/-! ## The commands of a session, one at a time -/

/-- A step on an encoded command of format L runs it: `len` is the number of bytes. -/
theorem step_chunkCommand {op : BitVec 8} {data : List Byte} {o : Opcode}
    (row : findOpcode (op ++ BitVec.ofNat 64 data.length) = some o) (chunk : formatOf o = .l)
    (fits : data.length < 2 ^ 64) (rest : List HostInput) (s : State) :
    step (s.setInputs (.command (chunkCommand op data) :: rest)) =
      exec (assemble o (chunkCommand op data)) (s.setInputs rest) := by
  have counted : data.length = (BitVec.ofNat 64 data.length).toNat := by rw [BitVec.toNat_ofNat, Nat.mod_eq_of_lt fits]
  exact (step_issued_of_chunkRow row chunk data rest s).trans (if_neg (not_not.mpr counted))

/-- `s` right after SINIT (R152). -/
def sessionStarted (s : State) : State :=
  { s with acc32 := 0#32, acc64 := 0#64, total := 0#64, eos := false, responses := s.responses ++ [⟨0#4, 0#64⟩] }

theorem step_sinit (rest : List HostInput) (s : State) :
    step (s.setInputs (.command (encode .sinit) :: rest)) = .next ((sessionStarted s).setInputs rest) :=
  sessionInitCommandWord s rest 0#64 []

/-- SINIT opens a session wherever both tables are built. -/
theorem openSession_sessionStarted {s : State} (inv : Inv s) (built32 : s.t32v = true) (built64 : s.t64v = true) :
    OpenSession (sessionStarted s) :=
  ⟨built32, built64, inv.built32 built32, inv.built64 built64, rfl⟩

/-- `s` after UPD32 of `c` through the built table (R122). -/
def afterUpd32 (c : List Byte) (s : State) : State :=
  { s with
    acc32 := updateW (tableEntry Config.poly32) c s.acc32
    responses := s.responses ++ [⟨0#4, BitVec.ofNat 64 (updateW (tableEntry Config.poly32) c s.acc32).toNat⟩] }

/-- `s` after UPD64 of `c` through the built table (R123). -/
def afterUpd64 (c : List Byte) (s : State) : State :=
  { s with
    acc64 := updateW (tableEntry Config.poly64) c s.acc64
    responses := s.responses ++ [⟨0#4, updateW (tableEntry Config.poly64) c s.acc64⟩] }

/-- The two engines' updates of one chunk, in one step each, are one delivery that counts nothing. -/
theorem afterUpd64_afterUpd32 (c : List Byte) (s : State) :
    afterUpd64 c (afterUpd32 c s) = delivered c 0 (afterUpd64 c (afterUpd32 c s)).responses s := by
  rw [delivered, BitVec.add_zero]
  rfl

section Chunks

variable {s : State} {c : List Byte}

theorem step_schunk (h : OpenSession s) (nonempty : c ≠ []) (fits : c.length < 2 ^ 64) (rest : List HostInput) :
    step (s.setInputs (.command (encode (.schunk c)) :: rest)) =
      .next ((delivered c c.length (s.responses ++ [⟨0#4, s.total + BitVec.ofNat 64 c.length⟩]) s).setInputs rest) := by
  have executes := exec_schunk_of_holds (fun _ => h.holds32) (fun _ => h.holds64) c rest
  rw [if_neg (by simp [h.built32, h.built64]), if_neg (by simp [h.isOpen]), if_neg nonempty] at executes
  exact (step_chunkCommand (findOpcode_schunk _) rfl fits rest s).trans executes

theorem step_endOfStream (h : OpenSession s) (rest : List HostInput) :
    step (s.setInputs (.command (encode (.schunk [])) :: rest)) =
      .next (((s.setEos true).addResponse ⟨0#4, s.total⟩).setInputs rest) := by
  have executes := exec_schunk_of_holds (fun _ => h.holds32) (fun _ => h.holds64) [] rest
  rw [if_neg (by simp [h.built32, h.built64]), if_neg (by simp [h.isOpen]), if_pos rfl] at executes
  exact (step_chunkCommand (findOpcode_schunk _) rfl (by decide) rest s).trans executes

theorem step_upd32 (built : s.t32v = true) (holds : Holds s.t32 (tableEntry Config.poly32))
    (fits : c.length < 2 ^ 64) (rest : List HostInput) :
    step (s.setInputs (.command (encode (.upd32 c)) :: rest)) =
      .next ((afterUpd32 c s).setInputs rest) := by
  have executes := exec_upd32_of_holds (fun _ => holds) c rest
  rw [if_neg (by simp [built])] at executes
  exact (step_chunkCommand (findOpcode_upd32 _) rfl fits rest s).trans executes

theorem step_upd64 (built : s.t64v = true) (holds : Holds s.t64 (tableEntry Config.poly64))
    (fits : c.length < 2 ^ 64) (rest : List HostInput) :
    step (s.setInputs (.command (encode (.upd64 c)) :: rest)) =
      .next ((afterUpd64 c s).setInputs rest) := by
  have executes := exec_upd64_of_holds (fun _ => holds) c rest
  rw [if_neg (by simp [built])] at executes
  exact (step_chunkCommand (findOpcode_upd64 _) rfl fits rest s).trans executes

theorem schunk_delivers (nonempty : c ≠ []) (fits : c.length < 2 ^ 64) :
    Delivers 1 (fun c => [.command (encode (.schunk c))]) List.length c :=
  fun _ rest h => ⟨_, run_succ_of_step (step_schunk h nonempty fits rest) 0⟩

/-- UPD32 and then UPD64 deliver a chunk, the empty one too, and count nothing. -/
theorem updates_deliver (fits : c.length < 2 ^ 64) :
    Delivers 2 (fun c => [.command (encode (.upd32 c)), .command (encode (.upd64 c))]) (fun _ => 0) c := by
  intro s rest h
  have first := step_upd32 h.built32 h.holds32 fits (.command (encode (.upd64 c)) :: rest)
  have second := step_upd64 (s := afterUpd32 c s) h.built64 h.holds64 fits rest
  rw [afterUpd64_afterUpd32] at second
  exact ⟨_, (run_succ_of_step first 1).trans (run_succ_of_step second 0)⟩

end Chunks

/-- Settles O52: SINIT, the delivery of all chunks, and for SCHUNK the end of stream; either way the chunks are folded as
their concatenation is. -/
theorem sessionResultsIndependentOfCut : Obligations.SessionResultsIndependentOfCut := by
  constructor
  · intro s chunks inv built32 built64 chunksOk
    have started := openSession_sessionStarted inv built32 built64
    obtain ⟨rs, delivers⟩ := run_delivers_chunks
      (fun c hc => schunk_delivers (chunksOk c hc).1 (chunksOk c hc).2) started [.command (encode (.schunk []))]
    rw [Nat.one_mul, ← List.map_eq_flatMap, ← List.length_flatten] at delivers
    have ends := step_endOfStream (started.delivered chunks.flatten chunks.flatten.length rs) []
    have runs := (run_add_of_run delivers 1).trans (run_succ_of_step ends 0)
    exact ⟨_, (run_succ_of_step (step_sinit _ s) _).trans runs, rfl, rfl, BitVec.zero_add _, rfl, rfl, rfl⟩
  · intro s chunks inv built32 built64 fits
    have started := openSession_sessionStarted inv built32 built64
    obtain ⟨rs, delivers⟩ := run_delivers_chunks (fun c hc => updates_deliver (fits c hc)) started []
    rw [List.append_nil] at delivers
    exact ⟨_, (run_succ_of_step (step_sinit _ s) _).trans delivers, rfl, rfl, rfl⟩

end Sys2Proof.Proofs
end

section
/-! The family 60_exceptions.md: what a command answers and what a refused one leaves (R174, R175). -/

namespace Sys2Proof.Proofs

open Sys2Proof.Machine Sys2Proof.Statements

/-- The state R174 names, and the one the model's fault leaves once the command is off the host's list. -/
theorem afterFault_setInputs_eq_refused (s : State) (rest : List HostInput) (c : FaultCause) :
    (s.setInputs rest).afterFault c = refused (faultCode c) rest s := rfl

/-- Settles O8: a command that executed answers status 0, and one that took a fault leaves the state R174 names, whose
response holds the fault's code. -/
theorem commandAnswersOnceAndRefusesPrecisely : Obligations.CommandAnswersOnceAndRefusesPrecisely := by
  intro s s' t rest hin hstep
  rw [step_command hin] at hstep
  obtain ⟨-, inputs, v, responses⟩ | ⟨c, rfl⟩ := transact_ends hstep
  · exact ⟨⟨0#4, v⟩, responses, inputs, (by decide : 0#4 ≤ 4#4), fun notOk => absurd rfl notOk⟩
  · rw [afterFault_setInputs_eq_refused]
    exact ⟨⟨faultCode c, 0#64⟩, rfl, rfl, faultCode_le_four c, fun _ => ⟨rfl, rfl⟩⟩

end Sys2Proof.Proofs
end

section
/-! The family 70_reset_and_hazards.md: the values after reset (R201, R202) and a reset at any time (R203). -/

namespace Sys2Proof.Proofs

open Sys2Proof.Machine

/-! ## The reset state -/

/-- Reset leaves the tables without any value (R202). -/
theorem read_reset (i : Byte) : State.reset.t32.read i = none ∧ State.reset.t64.read i = none := by
  rw [State.t32_reset, State.t64_reset]
  exact ⟨Memory.read_nil i, Memory.read_nil i⟩

/-- Every field STATUS shows is 0 after reset (R30). -/
theorem statusView_reset : statusView State.reset = 0x00#8 := by
  rw [statusView, State.err_reset, State.eos_reset, State.t64v_reset, State.t32v_reset]
  decide

/-- Settles O11: the flags, the empty tables, the registers, STATUS and the two constants, each by its own equation. -/
theorem resetStateValues : Obligations.ResetStateValues :=
  ⟨State.t32v_reset, State.t64v_reset, fun i => (read_reset i).1, fun i => (read_reset i).2, State.acc32_reset,
    State.acc64_reset, State.total_reset, State.eos_reset, State.err_reset, statusView_reset, rfl, rfl⟩

/-! ## A step on a reset -/

/-- A step on a reset looks at nothing but the host's later inputs: neither the state nor the abandoned command
(R203). -/
theorem step_reset {s : State} {abandoned : Option Transaction} {rest : List HostInput}
    (h : s.inputs = .reset abandoned :: rest) : step s = .next (State.reset.setInputs rest) := by
  rw [step_eq_takeInput, takeInput, h]
  rfl

/-- Settles O10: the step answers the reset state, whose values R201 gives and whose response log is empty. -/
theorem resetEventGivesResetState : Obligations.ResetEventGivesResetState := by
  intro s abandoned rest
  obtain ⟨t32v, t64v, t32, t64, acc32, acc64, total, eos, err, -⟩ := resetStateValues
  have noResponse : ∀ r ∈ (State.reset.setInputs rest).responses, r ∈ s.responses := by simp
  exact ⟨_, step_reset rfl, t32v, t64v, t32, t64, acc32, acc64, total, eos, err, noResponse⟩

end Sys2Proof.Proofs
end

section
/-! The round trip of the encoding (R70 to R76, R81): what is encoded decodes to itself, what is decoded encodes to
itself, and no word meets two rows. -/

namespace Sys2Proof.Proofs

open Sys2Proof.Machine

/-! ## From the command to its transaction and back -/

/-- The encoder's transaction meets the command's own row and carries the bytes of its format, for all 14 commands. -/
theorem encodedWord (i : Instr) : Laws.EncodedWord.Statement i :=
  match i with
  | .bld32 => Laws.EncodedWord.bld32
  | .bld64 => Laws.EncodedWord.bld64
  | .upd32 data => Laws.EncodedWord.upd32 data
  | .upd64 data => Laws.EncodedWord.upd64 data
  | .lds32 imm => Laws.EncodedWord.lds32 imm
  | .lds64 imm => Laws.EncodedWord.lds64 imm
  | .rds32 => Laws.EncodedWord.rds32
  | .rds64 => Laws.EncodedWord.rds64
  | .rdt32 idx => Laws.EncodedWord.rdt32 idx
  | .rdt64 idx => Laws.EncodedWord.rdt64 idx
  | .sinit => Laws.EncodedWord.sinit
  | .schunk data => Laws.EncodedWord.schunk data
  | .rdtot => Laws.EncodedWord.rdtot
  | .rdsr => Laws.EncodedWord.rdsr

/-- An operand narrower than `arg` is its low bits (R72). -/
theorem ofNat_toNat_setWidth_of_le {n : Nat} (v : BitVec n) (h : n ≤ 64) :
    BitVec.ofNat n (v.setWidth 64).toNat = v := by
  rw [BitVec.ofNat_toNat, BitVec.setWidth_setWidth_of_le v h, BitVec.setWidth_eq]

/-- The operands are read where the encoder wrote them (R72, R73). -/
theorem assemble_encode (i : Instr) : assemble (Laws.opcodeOf i) (encode i) = i := by
  cases i with
  | bld32 | bld64 | upd32 | upd64 | rds32 | rds64 | sinit | schunk | rdtot | rdsr => rfl
  | lds32 imm =>
    exact congrArg Instr.lds32 ((imm32Of_append _ _).trans (ofNat_toNat_setWidth_of_le imm (by decide)))
  | lds64 imm => exact congrArg Instr.lds64 (argOf_append _ imm)
  | rdt32 idx => exact congrArg Instr.rdt32 ((idxOf_append _ _).trans (ofNat_toNat_setWidth_of_le idx (by decide)))
  | rdt64 idx => exact congrArg Instr.rdt64 ((idxOf_append _ _).trans (ofNat_toNat_setWidth_of_le idx (by decide)))

/-- Settles O1: the encoded word meets the command's own row, and the operands are read where they were written. -/
theorem decodeEncodedCommand : Obligations.DecodeEncodedCommand := by
  intro i wf
  obtain ⟨row, fits⟩ := encodedWord i wf
  exact (decode_eq_ok_iff _ i).mpr ⟨Laws.opcodeOf i, row, fits, (assemble_encode i).symm⟩

/-! ## From the transaction to its command and back -/

/-- A row is found for a word only where the word has the row's `op` and no reserved bit of `arg` is 1 (R72, R76). -/
theorem row_of_findOpcode_append {op : BitVec 8} {arg : Word64} {o : Opcode} (h : findOpcode (op ++ arg) = some o) :
    ∃ n, (o, op, n) ∈ splitRows ∧ arg.toNat < 2 ^ n := by
  rw [findOpcode_append, Option.map_eq_some_iff] at h
  obtain ⟨⟨o, q, n⟩, found, rfl⟩ := h
  obtain ⟨rfl, inRange⟩ : op = q ∧ arg.toNat < 2 ^ n := by simpa using List.find?_some found
  exact ⟨n, List.mem_of_find?_eq_some found, inRange⟩

/-- An operand narrower than `arg` fills `arg` with zeros where no bit above it is 1. -/
theorem setWidth_ofNat_toNat_of_lt {n : Nat} {arg : Word64} (h : arg.toNat < 2 ^ n) :
    (BitVec.ofNat n arg.toNat).setWidth 64 = arg := by
  apply BitVec.eq_of_toNat_eq
  rw [BitVec.toNat_setWidth, BitVec.toNat_ofNat, Nat.mod_eq_of_lt h, Nat.mod_eq_of_lt arg.isLt]

theorem eq_nil_of_dataFits {f : Format} {t : Transaction} (fits : dataFits f t = true) (h : f ≠ .l) : t.data = [] :=
  List.isEmpty_iff.mp ((dataFits_of_ne_l h t).symm.trans fits)

/-- A chunk that fits its word's `len` is encoded with that `len`, and has an encoding (R81). -/
theorem chunkCommand_of_dataFits {op : BitVec 8} {arg : Word64} {data : List Byte}
    (fits : dataFits .l ⟨op ++ arg, data⟩ = true) :
    chunkCommand op data = ⟨op ++ arg, data⟩ ∧ lengthEncodable data = true := by
  have counted : data.length = arg.toNat := by simpa [dataFits] using fits
  constructor
  · rw [chunkCommand, counted, BitVec.ofNat_toNat, BitVec.setWidth_eq, command]
  · exact decide_eq_true (counted ▸ arg.isLt)

/-- The encoder writes the operands where the decoder read them, format by format (R72). -/
theorem encode_assemble {op : BitVec 8} {arg : Word64} {data : List Byte} {o : Opcode} {n : Nat}
    (row : (o, op, n) ∈ splitRows) (inRange : arg.toNat < 2 ^ n)
    (fits : dataFits (formatOf o) ⟨op ++ arg, data⟩ = true) :
    encode (assemble o ⟨op ++ arg, data⟩) = ⟨op ++ arg, data⟩ ∧
      wellFormed (assemble o ⟨op ++ arg, data⟩) = true := by
  cases o with
  | bld32 | bld64 | rds32 | rds64 | sinit | rdtot | rdsr =>
    obtain ⟨rfl, rfl⟩ : op = _ ∧ n = 0 := by simpa [splitRows] using row
    obtain rfl : data = [] := eq_nil_of_dataFits fits (by decide)
    obtain rfl : arg = 0#64 := (toNat_eq_zero_iff arg).mp (Nat.lt_one_iff.mp inRange)
    exact ⟨rfl, rfl⟩
  | upd32 | upd64 | schunk =>
    obtain ⟨rfl, -⟩ : op = _ ∧ n = 64 := by simpa [splitRows] using row
    exact chunkCommand_of_dataFits fits
  | lds32 | lds64 | rdt32 | rdt64 =>
    obtain ⟨rfl, rfl⟩ : op = _ ∧ n = _ := by simpa [splitRows] using row
    obtain rfl : data = [] := eq_nil_of_dataFits fits (by decide)
    simp only [assemble, encode, imm32Of_append, argOf_append, idxOf_append, setWidth_ofNat_toNat_of_lt inRange]
    exact ⟨rfl, rfl⟩

/-- Settles O2: an accepted word has its row's `op` and no reserved bit, so the encoder writes the same word. -/
theorem encodeDecodedTransaction : Obligations.EncodeDecodedTransaction := by
  rintro ⟨cw, data⟩ i h
  rw [← append_opOf_argOf cw] at h ⊢
  obtain ⟨o, found, fits, rfl⟩ := (decode_eq_ok_iff _ i).mp h
  obtain ⟨n, row, inRange⟩ := row_of_findOpcode_append found
  exact encode_assemble row inRange fits

/-! ## The opcode map -/

/-- Every row's mask covers the whole of `op` (R76). -/
theorem opOf_mask_of_mem_encodingTable : ∀ r ∈ encodingTable, opOf r.mask = BitVec.allOnes 8 := by decide

/-- No two rows share their `op` (R76). -/
theorem eq_of_opOf_pattern_eq :
    ∀ r ∈ encodingTable, ∀ r' ∈ encodingTable, opOf r.pattern = opOf r'.pattern → r = r' := by decide

/-- A word meets only rows of its own `op`. -/
theorem opOf_eq_of_meetsRow {cw : CommandWord} {r : EncodingRow} (mem : r ∈ encodingTable)
    (meets : meetsRow cw r = true) : opOf cw = opOf r.pattern := by
  have word : cw &&& r.mask = r.pattern := eq_of_beq meets
  calc opOf cw
    _ = opOf cw &&& opOf r.mask := by rw [opOf_mask_of_mem_encodingTable r mem, BitVec.and_allOnes]
    _ = opOf (cw &&& r.mask) := BitVec.extractLsb'_and.symm
    _ = opOf r.pattern := by rw [word]

/-- Settles O5: two rows met by one word have that word's `op`, and an `op` has one row. -/
theorem encodingRowsUnambiguous : Obligations.EncodingRowsUnambiguous := by
  intro cw r mem r' mem' meets meets'
  exact eq_of_opOf_pattern_eq r mem r' mem'
    ((opOf_eq_of_meetsRow mem meets).symm.trans (opOf_eq_of_meetsRow mem' meets'))

/-- Settles O6: each of the six words is the encoding of its command. -/
theorem sampleWordsDecode : Obligations.SampleWordsDecode :=
  ⟨decodeEncodedCommand .bld64 rfl, decodeEncodedCommand (.upd32 [0x61#8, 0x62#8, 0x63#8]) rfl,
    decodeEncodedCommand (.lds64 0x0123456789ABCDEF#64) rfl, decodeEncodedCommand (.rdt32 0xC8#8) rfl,
    decodeEncodedCommand (.schunk [0x00#8, 0xFF#8]) rfl, decodeEncodedCommand .rdsr rfl⟩

end Sys2Proof.Proofs
end

section
/-! The 32-bit and the 64-bit side of the block (R24): table, valid flag and checksum state of one width. A command acts
on each side by one of four actions, said once for both widths; the access matrix (R37) and the independence of the two
widths follow. -/

namespace Sys2Proof.Proofs

open Sys2Proof.Machine Sys2Proof.Statements

/-! ## One side -/

/-- What the block holds for one width: the table, its valid flag and the checksum state. -/
structure Side (w : Nat) where
  table : Memory w
  built : Bool
  acc : BitVec w

/-- The 32-bit side of a state. -/
def side32 (s : State) : Side 32 := ⟨s.t32, s.t32v, s.acc32⟩

/-- The 64-bit side of a state. -/
def side64 (s : State) : Side 64 := ⟨s.t64, s.t64v, s.acc64⟩

/-- What a command may do to one side. -/
inductive SideAction (w : Nat) where
  /-- Leave it as it is. -/
  | keep
  /-- Build the table. -/
  | build
  /-- Set the checksum state. -/
  | load (v : BitVec w)
  /-- Fold a chunk into the checksum state, if the table is built. -/
  | fold (data : List Byte)

/-- The side after an action. A fold that would read an entry without a value has no result in the model (the command
stops); here it keeps the checksum state, which no statement about a next state can see. -/
def SideAction.run {w : Nat} (p : BitVec w) (a : SideAction w) (x : Side w) : Side w :=
  match a with
  | .keep => x
  | .build => { x with table := x.table.build p, built := true }
  | .load v => { x with acc := v }
  | .fold data => { x with acc := if x.built then (x.table.update data x.acc).getD x.acc else x.acc }

section Actions

variable {w : Nat} {p : BitVec w} {x : Side w} {data : List Byte}

theorem run_fold_of_update (built : x.built = true) {v : BitVec w} (folds : x.table.update data x.acc = some v) :
    (SideAction.fold data).run p x = { x with acc := v } := by
  rw [SideAction.run, if_pos built, folds, Option.getD_some]

theorem run_fold_of_unbuilt (unbuilt : x.built = false) : (SideAction.fold data).run p x = x := by
  rw [SideAction.run, if_neg (ne_true_of_eq_false unbuilt)]

/-- The engine on no bytes: the two complements cancel (R129). -/
theorem update_nil (m : Memory w) (state : BitVec w) : m.update [] state = some state := by
  rw [Memory.update, Memory.foldBytes, Option.map_some, BitVec.not_not]

/-- Only a build writes the table and its flag. -/
theorem run_table_of_ne_build {a : SideAction w} (h : a ≠ .build) :
    (a.run p x).table = x.table ∧ (a.run p x).built = x.built := by
  cases a with
  | build => exact absurd rfl h
  | keep | load | fold => exact ⟨rfl, rfl⟩

end Actions

/-! ## What each command does to the two sides -/

/-- SCHUNK is accepted: both tables built and the stream not ended (R153). -/
def acceptsChunk (s : State) : Bool := s.t32v && s.t64v && !s.eos

/-- What a command does to the 32-bit side, by whether SCHUNK is accepted. -/
def action32 (accepts : Bool) (i : Instr) : SideAction 32 :=
  match i with
  | .bld32 => .build
  | .upd32 data => .fold data
  | .lds32 v => .load v
  | .sinit => .load 0
  | .schunk data => if accepts then .fold data else .keep
  | .bld64 | .upd64 _ | .lds64 _ | .rds32 | .rds64 | .rdt32 _ | .rdt64 _ | .rdtot | .rdsr => .keep

/-- What a command does to the 64-bit side, by whether SCHUNK is accepted. -/
def action64 (accepts : Bool) (i : Instr) : SideAction 64 :=
  match i with
  | .bld64 => .build
  | .upd64 data => .fold data
  | .lds64 v => .load v
  | .sinit => .load 0
  | .schunk data => if accepts then .fold data else .keep
  | .bld32 | .upd32 _ | .lds32 _ | .rds32 | .rds64 | .rdt32 _ | .rdt64 _ | .rdtot | .rdsr => .keep

/-- The sides of `t` are those of `s` after the command's two actions. -/
def ActsOnSides (i : Instr) (s t : State) : Prop :=
  side32 t = (action32 (acceptsChunk s) i).run Config.poly32 (side32 s) ∧
    side64 t = (action64 (acceptsChunk s) i).run Config.poly64 (side64 s)

/-- A SCHUNK that is refused keeps both sides. -/
theorem actsOnSides_schunk_of_refused {data : List Byte} {s t : State} (refuses : acceptsChunk s = false)
    (kept32 : side32 t = side32 s) (kept64 : side64 t = side64 s) : ActsOnSides (.schunk data) s t := by
  rw [ActsOnSides, refuses]
  exact ⟨kept32, kept64⟩

/-- A SCHUNK that is accepted folds its bytes into both sides, none for the end of stream. -/
theorem actsOnSides_schunk_of_accepted {data : List Byte} {s t : State} {a : Word32} {b : Word64}
    (built : (s.t32v && s.t64v) = true) (isOpen : s.eos = false)
    (folds32 : s.t32.update data s.acc32 = some a) (folds64 : s.t64.update data s.acc64 = some b)
    (after32 : side32 t = { side32 s with acc := a }) (after64 : side64 t = { side64 s with acc := b }) :
    ActsOnSides (.schunk data) s t := by
  have accepts : acceptsChunk s = true := by rw [acceptsChunk, built, isOpen, Bool.not_false, Bool.and_true]
  obtain ⟨built32, built64⟩ := Bool.and_eq_true_iff.mp built
  rw [ActsOnSides, accepts]
  exact ⟨after32.trans (run_fold_of_update built32 folds32).symm,
    after64.trans (run_fold_of_update built64 folds64).symm⟩

/-- The exhaustive case split over the 14 commands. -/
theorem exec_actsOnSides {i : Instr} {s t : State} (h : exec i s = .next t) : ActsOnSides i s t := by
  cases i with
  | bld32 => exact (exec_bld32_next_iff s t).mp h ▸ ⟨rfl, rfl⟩
  | bld64 => exact (exec_bld64_next_iff s t).mp h ▸ ⟨rfl, rfl⟩
  | upd32 data =>
    obtain ⟨built, v, folds, rfl⟩ | ⟨unbuilt, rfl⟩ := (exec_upd32_next_iff s t data).mp h
    · exact ⟨(run_fold_of_update (x := side32 s) built folds).symm, rfl⟩
    · exact ⟨(run_fold_of_unbuilt (x := side32 s) unbuilt).symm, rfl⟩
  | upd64 data =>
    obtain ⟨built, v, folds, rfl⟩ | ⟨unbuilt, rfl⟩ := (exec_upd64_next_iff s t data).mp h
    · exact ⟨rfl, (run_fold_of_update (x := side64 s) built folds).symm⟩
    · exact ⟨rfl, (run_fold_of_unbuilt (x := side64 s) unbuilt).symm⟩
  | lds32 imm => exact (exec_lds32_next_iff s t imm).mp h ▸ ⟨rfl, rfl⟩
  | lds64 imm => exact (exec_lds64_next_iff s t imm).mp h ▸ ⟨rfl, rfl⟩
  | rds32 => exact (exec_rds32_next_iff s t).mp h ▸ ⟨rfl, rfl⟩
  | rds64 => exact (exec_rds64_next_iff s t).mp h ▸ ⟨rfl, rfl⟩
  | rdt32 idx => obtain ⟨-, _, -, rfl⟩ | ⟨-, rfl⟩ := (exec_rdt32_next_iff s t idx).mp h <;> exact ⟨rfl, rfl⟩
  | rdt64 idx => obtain ⟨-, _, -, rfl⟩ | ⟨-, rfl⟩ := (exec_rdt64_next_iff s t idx).mp h <;> exact ⟨rfl, rfl⟩
  | sinit => exact (exec_sinit_next_iff s t).mp h ▸ ⟨rfl, rfl⟩
  | schunk data =>
    obtain ⟨built, isOpen, rfl, rfl⟩ | ⟨built, isOpen, -, a, b, folds32, folds64, rfl⟩ | ⟨-, ended, rfl⟩ |
      ⟨unbuilt, rfl⟩ := (exec_schunk_next_iff s t data).mp h
    · exact actsOnSides_schunk_of_accepted built isOpen (update_nil ..) (update_nil ..) rfl rfl
    · exact actsOnSides_schunk_of_accepted built isOpen folds32 folds64 rfl rfl
    · exact actsOnSides_schunk_of_refused (by rw [acceptsChunk, ended, Bool.not_true, Bool.and_false]) rfl rfl
    · exact actsOnSides_schunk_of_refused (by rw [acceptsChunk, unbuilt, Bool.false_and]) rfl rfl
  | rdtot => exact (exec_rdtot_next_iff s t).mp h ▸ ⟨rfl, rfl⟩
  | rdsr => exact (exec_rdsr_next_iff s t).mp h ▸ ⟨rfl, rfl⟩

/-! ## The access matrix (R37) -/

theorem action32_ne_build {i : Instr} (h : i ≠ .bld32) (accepts : Bool) : action32 accepts i ≠ .build := by
  cases i with
  | bld32 => exact absurd rfl h
  | schunk data => cases accepts <;> exact nofun
  | _ => exact nofun

theorem action64_ne_build {i : Instr} (h : i ≠ .bld64) (accepts : Bool) : action64 accepts i ≠ .build := by
  cases i with
  | bld64 => exact absurd rfl h
  | schunk data => cases accepts <;> exact nofun
  | _ => exact nofun

/-- A command outside the list of R37 leaves ACC32 alone: it keeps the side or builds its table. -/
theorem run_action32_acc {i : Instr} (h : ¬ mayWriteAcc32 i) (accepts : Bool) (p : Word32) (x : Side 32) :
    ((action32 accepts i).run p x).acc = x.acc := by
  cases i with
  | upd32 data => exact absurd (.inl ⟨data, rfl⟩) h
  | lds32 v => exact absurd (.inr (.inl ⟨v, rfl⟩)) h
  | sinit => exact absurd (.inr (.inr (.inl rfl))) h
  | schunk data => exact absurd (.inr (.inr (.inr ⟨data, rfl⟩))) h
  | _ => rfl

/-- A command outside the list of R37 leaves ACC64 alone. -/
theorem run_action64_acc {i : Instr} (h : ¬ mayWriteAcc64 i) (accepts : Bool) (p : Word64) (x : Side 64) :
    ((action64 accepts i).run p x).acc = x.acc := by
  cases i with
  | upd64 data => exact absurd (.inl ⟨data, rfl⟩) h
  | lds64 v => exact absurd (.inr (.inl ⟨v, rfl⟩)) h
  | sinit => exact absurd (.inr (.inr (.inl rfl))) h
  | schunk data => exact absurd (.inr (.inr (.inr ⟨data, rfl⟩))) h
  | _ => rfl

theorem Ends.inputs_eq {s t : State} (h : Ends s t) : t.inputs = s.inputs := by
  obtain ⟨-, inputs, -⟩ | ⟨c, rfl⟩ := h
  · exact inputs
  · exact s.inputs_afterFault c

/-- Settles O45: a table is written by its build alone, a checksum state by the commands of R37, TOTAL and EOS by the
session's two, and the host's list by none. -/
theorem accessMatrixWrites : Obligations.AccessMatrixWrites := by
  intro i s t h
  obtain ⟨acts32, acts64⟩ := exec_actsOnSides h
  refine ⟨fun notBuild => ?_, fun notBuild => ?_, fun frame => ?_, fun frame => ?_, exec_keeps_session h,
    (exec_ends h).inputs_eq⟩
  · obtain ⟨table, built⟩ := run_table_of_ne_build (action32_ne_build notBuild (acceptsChunk s))
    exact ⟨(congrArg Side.built acts32).trans built,
      fun j => congrArg (Memory.read · j) ((congrArg Side.table acts32).trans table)⟩
  · obtain ⟨table, built⟩ := run_table_of_ne_build (action64_ne_build notBuild (acceptsChunk s))
    exact ⟨(congrArg Side.built acts64).trans built,
      fun j => congrArg (Memory.read · j) ((congrArg Side.table acts64).trans table)⟩
  · exact (congrArg Side.acc acts32).trans (run_action32_acc frame ..)
  · exact (congrArg Side.acc acts64).trans (run_action64_acc frame ..)

/-! ## Noninterference (R24) -/

/-- Of all commands only SCHUNK looks at whether a chunk is accepted. -/
theorem action32_congr {i : Instr} {s₁ s₂ : State} (h : ∀ d, i = .schunk d → acceptsChunk s₁ = acceptsChunk s₂) :
    action32 (acceptsChunk s₁) i = action32 (acceptsChunk s₂) i := by
  cases i with
  | schunk data => rw [h data rfl]
  | _ => rfl

theorem action64_congr {i : Instr} {s₁ s₂ : State} (h : ∀ d, i = .schunk d → acceptsChunk s₁ = acceptsChunk s₂) :
    action64 (acceptsChunk s₁) i = action64 (acceptsChunk s₂) i := by
  cases i with
  | schunk data => rw [h data rfl]
  | _ => rfl

/-- Settles O51: a side after a command is the command's action on that side, and only SCHUNK's action looks beyond it,
at whether the chunk is accepted. -/
theorem widthsDoNotInterfere : Obligations.WidthsDoNotInterfere := by
  constructor
  · intro i s₁ s₂ a b table built acc chunk ha hb
    have sides : side32 s₁ = side32 s₂ := by rw [side32, table, built, acc, side32]
    have actions := action32_congr fun d hd =>
      show acceptsChunk s₁ = acceptsChunk s₂ by
        rw [acceptsChunk, built, (chunk d hd).1, (chunk d hd).2, acceptsChunk]
    have next : side32 a = side32 b := by rw [(exec_actsOnSides ha).1, (exec_actsOnSides hb).1, sides, actions]
    exact ⟨congrArg Side.table next, congrArg Side.built next, congrArg Side.acc next⟩
  · intro i s₁ s₂ a b table built acc chunk ha hb
    have sides : side64 s₁ = side64 s₂ := by rw [side64, table, built, acc, side64]
    have actions := action64_congr fun d hd =>
      show acceptsChunk s₁ = acceptsChunk s₂ by
        rw [acceptsChunk, built, (chunk d hd).1, (chunk d hd).2, acceptsChunk]
    have next : side64 a = side64 b := by rw [(exec_actsOnSides ha).2, (exec_actsOnSides hb).2, sides, actions]
    exact ⟨congrArg Side.table next, congrArg Side.built next, congrArg Side.acc next⟩

/-! ## The byte counter (R27) -/

/-- TOTAL after a SCHUNK: the chunk's length is added where the chunk is accepted, 0 at the end of stream. -/
theorem total_of_exec_schunk {data : List Byte} {s t : State} (h : exec (.schunk data) s = .next t) :
    t.total = if acceptsChunk s then s.total + BitVec.ofNat 64 data.length else s.total := by
  obtain ⟨built, isOpen, rfl, rfl⟩ | ⟨built, isOpen, -, _, _, -, -, rfl⟩ | ⟨-, ended, rfl⟩ | ⟨unbuilt, rfl⟩ :=
    (exec_schunk_next_iff s t data).mp h
  · rw [acceptsChunk, built, isOpen]
    exact (BitVec.add_zero _).symm
  · rw [acceptsChunk, built, isOpen]
    rfl
  · rw [acceptsChunk, ended, Bool.not_true, Bool.and_false]
    rfl
  · rw [acceptsChunk, unbuilt, Bool.false_and]
    rfl

theorem acceptsChunk_iff (s : State) :
    acceptsChunk s = true ↔ s.t32v = true ∧ s.t64v = true ∧ s.eos = false := by
  rw [acceptsChunk, Bool.and_eq_true, Bool.and_eq_true, Bool.not_eq_true', and_assoc]

/-- A sum that does not wrap is not below its first term. -/
theorem toNat_le_toNat_add_ofNat {a : Word64} {n : Nat} (fits : a.toNat + n < 2 ^ 64) :
    a.toNat ≤ (a + BitVec.ofNat 64 n).toNat := by
  rw [BitVec.toNat_add, BitVec.toNat_ofNat, Nat.add_mod_mod, Nat.mod_eq_of_lt fits]
  exact Nat.le_add_right _ _

/-- Settles O50: SINIT clears TOTAL, an accepted SCHUNK adds its length, and no other command writes it. -/
theorem totalCountsAcceptedChunks : Obligations.TotalCountsAcceptedChunks := by
  intro i s t h
  refine ⟨?_, ?_, ?_, fun frame => (exec_keeps_session h frame).1, ?_⟩
  · rintro rfl
    obtain rfl := (exec_sinit_next_iff s t).mp h
    rfl
  · rintro data rfl
    simp only [total_of_exec_schunk h, acceptsChunk_iff]
  · rintro data rfl fits
    rw [total_of_exec_schunk h]
    split
    · exact toNat_le_toNat_add_ofNat fits
    · exact le_rfl
  · rintro rfl
    obtain rfl := (exec_rdtot_next_iff s t).mp h
    rfl

end Sys2Proof.Proofs
end

section
/-! The invariant of the block: it holds at reset, every step keeps it, and from a state that satisfies it every step
answers a next state (R174, R182, R200). Each of its clauses speaks of one side, of the end of stream or of the
responses, and is kept by the rule for that part. -/

namespace Sys2Proof.Proofs

open Sys2Proof.Machine Sys2Proof.Statements

/-! ## The tables -/

/-- One side's share of the invariant: the table is in canonical form, holds all values of its polynomial where it is
built, and no value where it is not (R22, R25, R202). -/
structure Side.Valid {w : Nat} (p : BitVec w) (x : Side w) : Prop where
  wf : x.table.wf = true
  built : x.built = true → Holds x.table (tableEntry p)
  unbuilt : x.built = false → ∀ i, x.table.read i = none

section Sides

variable {w : Nat} {p : BitVec w} {x : Side w}

/-- An action keeps a side valid: a build makes all values of the polynomial, and no other action writes the table. -/
theorem Side.Valid.run (valid : x.Valid p) (a : SideAction w) : (a.run p x).Valid p := by
  cases a with
  | build => exact ⟨x.table.wf_build p valid.wf, fun _ => x.table.read_build p, nofun⟩
  | keep | load | fold => exact ⟨valid.wf, valid.built, valid.unbuilt⟩

/-- A built table stays the same data: a second build writes the values it holds (R23 (c), R106). -/
theorem Side.Valid.run_of_built (valid : x.Valid p) (built : x.built = true) (a : SideAction w) :
    (a.run p x).table = x.table ∧ (a.run p x).built = true := by
  cases a with
  | build => exact ⟨build_eq_self valid.wf (valid.built built), rfl⟩
  | keep | load | fold => exact ⟨rfl, built⟩

end Sides

/-! ## ERR and the responses -/

/-- The first fault of a longer list of responses is latched as ERR latches it (R29). -/
theorem firstFault_append_singleton (rs : List Response) (r : Response) :
    firstFault (rs ++ [r]) = latchErr (firstFault rs) r.status := by
  induction rs with
  | nil =>
    rw [List.nil_append, firstFault, firstFault, latchErr_zero]
    split
    next ok => exact ok.symm
    next => rfl
  | cons q rs ih =>
    rw [List.cons_append, firstFault, firstFault, ih]
    by_cases ok : q.status = 0#4
    · rw [if_pos ok, if_pos ok]
    · rw [if_neg ok, if_neg ok, latchErr_of_ne ok]

theorem firstFault_eq_zero_iff (rs : List Response) : firstFault rs = 0#4 ↔ ∀ r ∈ rs, r.status = 0#4 := by
  induction rs with
  | nil => simp [firstFault]
  | cons r rs ih =>
    rw [firstFault, List.forall_mem_cons, ← ih]
    by_cases ok : r.status = 0#4
    · rw [if_pos ok, and_iff_right ok]
    · exact iff_of_false (by rwa [if_neg ok]) fun both => ok both.1

/-- The invariant's clauses on ERR and the responses (R29, R80, R171). -/
structure LogValid (s : State) : Prop where
  firstErr : s.err = firstFault s.responses
  answers : ∀ r ∈ s.responses, r.status ≤ 4#4 ∧ (r.status ≠ 0#4 → r.res = 0)

/-- The one response a command gives is allowed, and ERR latches its status. -/
theorem Ends.allowed_response {s t : State} (h : Ends s t) :
    ∃ r, t.responses = s.responses ++ [r] ∧ t.err = latchErr s.err r.status ∧
      r.status ≤ 4#4 ∧ (r.status ≠ 0#4 → r.res = 0) := by
  obtain ⟨err, -, v, responses⟩ | ⟨c, rfl⟩ := h
  · exact ⟨_, responses, err.trans (latchErr_statusOk _).symm, (by decide : 0#4 ≤ 4#4), fun fault => absurd rfl fault⟩
  · exact ⟨_, s.responses_afterFault c, s.err_afterFault c, faultCode_le_four c, fun _ => rfl⟩

theorem Ends.keeps_logValid {s t : State} (h : Ends s t) (log : LogValid s) : LogValid t := by
  obtain ⟨r, responses, err, allowed⟩ := h.allowed_response
  constructor
  · rw [err, responses, firstFault_append_singleton, log.firstErr]
  · rw [responses]
    exact List.forall_mem_append.mpr ⟨log.answers, List.forall_mem_singleton.mpr allowed⟩

/-! ## The invariant by its parts -/

theorem inv_iff (s : State) :
    Inv s ↔ (side32 s).Valid Config.poly32 ∧ (side64 s).Valid Config.poly64 ∧
      (s.eos = true → s.t32v = true ∧ s.t64v = true) ∧ LogValid s := by
  constructor
  · intro inv
    exact ⟨⟨inv.wf32, inv.built32, inv.unbuilt32⟩, ⟨inv.wf64, inv.built64, inv.unbuilt64⟩, inv.ended,
      ⟨inv.firstErr, inv.answers⟩⟩
  · rintro ⟨valid32, valid64, ended, log⟩
    exact ⟨valid32.wf, valid64.wf, valid32.built, valid64.built, valid32.unbuilt, valid64.unbuilt, ended,
      log.firstErr, log.answers⟩

/-- The invariant does not speak of what the host still issues. -/
theorem inv_setInputs {s : State} (inv : Inv s) (ins : List HostInput) : Inv (s.setInputs ins) :=
  ⟨inv.wf32, inv.wf64, inv.built32, inv.built64, inv.unbuilt32, inv.unbuilt64, inv.ended, inv.firstErr, inv.answers⟩

/-- Settles O41: after reset both tables are empty and unbuilt, EOS and ERR are 0 and no response was given. -/
theorem resetSatisfiesInvariant : Obligations.ResetSatisfiesInvariant := by
  have valid {w : Nat} (p : BitVec w) : Side.Valid p ⟨[], false, 0⟩ :=
    ⟨Memory.wf_nil, nofun, fun _ => Memory.read_nil⟩
  exact (inv_iff State.reset).mpr ⟨valid Config.poly32, valid Config.poly64, nofun, ⟨rfl, nofun⟩⟩

/-! ## A step keeps the invariant -/

/-- A fault writes nothing but the ERR latch and the response (R174). -/
theorem inv_afterFault {s : State} (inv : Inv s) (c : FaultCause) : Inv (s.afterFault c) := by
  obtain ⟨valid32, valid64, ended, log⟩ := (inv_iff s).mp inv
  exact (inv_iff _).mpr ⟨valid32, valid64, ended, (ends_afterFault s c).keeps_logValid log⟩

/-- EOS is 1 after a command only if it was before or SCHUNK found both tables built (R153). -/
theorem exec_sets_eos {i : Instr} {s t : State} (h : exec i s = .next t) (ended : t.eos = true) :
    s.eos = true ∨ (s.t32v = true ∧ s.t64v = true) := by
  by_cases writes : mayWriteSession i
  · obtain rfl | ⟨data, rfl⟩ := writes
    · obtain rfl := (exec_sinit_next_iff s t).mp h
      exact Bool.noConfusion ended
    · obtain ⟨built, -⟩ | ⟨built, -⟩ | ⟨built, -⟩ | ⟨-, rfl⟩ := (exec_schunk_next_iff s t data).mp h
      · exact .inr (Bool.and_eq_true_iff.mp built)
      · exact .inr (Bool.and_eq_true_iff.mp built)
      · exact .inr (Bool.and_eq_true_iff.mp built)
      · exact .inl ended
  · exact .inl ((exec_keeps_session h writes).2.symm.trans ended)

/-- No command changes a built table or clears its flag. -/
theorem exec_keeps_built {i : Instr} {s t : State} (inv : Inv s) (h : exec i s = .next t) :
    (s.t32v = true → t.t32 = s.t32 ∧ t.t32v = true) ∧ (s.t64v = true → t.t64 = s.t64 ∧ t.t64v = true) := by
  obtain ⟨valid32, valid64, -, -⟩ := (inv_iff s).mp inv
  obtain ⟨acts32, acts64⟩ := exec_actsOnSides h
  constructor
  · intro built
    obtain ⟨table, flag⟩ := valid32.run_of_built built (action32 (acceptsChunk s) i)
    exact ⟨(congrArg Side.table acts32).trans table, (congrArg Side.built acts32).trans flag⟩
  · intro built
    obtain ⟨table, flag⟩ := valid64.run_of_built built (action64 (acceptsChunk s) i)
    exact ⟨(congrArg Side.table acts64).trans table, (congrArg Side.built acts64).trans flag⟩

theorem exec_keeps_inv {i : Instr} {s t : State} (inv : Inv s) (h : exec i s = .next t) : Inv t := by
  obtain ⟨valid32, valid64, ended, log⟩ := (inv_iff s).mp inv
  obtain ⟨acts32, acts64⟩ := exec_actsOnSides h
  obtain ⟨keeps32, keeps64⟩ := exec_keeps_built inv h
  refine (inv_iff t).mpr ⟨acts32 ▸ valid32.run _, acts64 ▸ valid64.run _, fun eos => ?_,
    (exec_ends h).keeps_logValid log⟩
  obtain ⟨built32, built64⟩ := (exec_sets_eos h eos).elim ended id
  exact ⟨(keeps32 built32).2, (keeps64 built64).2⟩

/-- Settles O40: an idle step changes nothing, a reset leaves the reset state, a refusal leaves all but ERR, and a
command keeps every part of the invariant. -/
theorem stepKeepsInvariant : Obligations.StepKeepsInvariant := by
  intro s t inv h
  obtain ⟨-, eq⟩ | ⟨_, rest, -, eq⟩ | ⟨_, rest, c, -, -, eq⟩ | ⟨_, rest, i, -, -, eq⟩ := step_cases s
  · cases eq.symm.trans h
    exact inv
  · cases eq.symm.trans h
    exact inv_setInputs resetSatisfiesInvariant rest
  · obtain rfl := (raiseFault_next_iff _ t c).mp (eq.symm.trans h)
    exact inv_afterFault (inv_setInputs inv rest) c
  · exact exec_keeps_inv (inv_setInputs inv rest) (eq.symm.trans h)

/-- Settles O48: no command changes a built table, and an idle step or a refusal changes no table at all. -/
theorem builtTablesNeverChange : Obligations.BuiltTablesNeverChange := by
  intro s t inv noReset h
  obtain ⟨-, eq⟩ | ⟨a, rest, reset, -⟩ | ⟨_, rest, c, -, -, eq⟩ | ⟨_, rest, i, -, -, eq⟩ := step_cases s
  · cases eq.symm.trans h
    exact ⟨fun built => ⟨rfl, built⟩, fun built => ⟨rfl, built⟩⟩
  · exact absurd reset (noReset a rest)
  · obtain rfl := (raiseFault_next_iff _ t c).mp (eq.symm.trans h)
    exact ⟨fun built => ⟨rfl, built⟩, fun built => ⟨rfl, built⟩⟩
  · exact (exec_keeps_built (inv_setInputs inv rest) (eq.symm.trans h) :)

/-! ## A step always answers -/

theorem requireBuilt_answers {built : Bool} {s : State} {k : Result} (h : built = true → ∃ t, k = .next t) :
    ∃ t, requireBuilt built s k = .next t := by
  cases built with
  | false => exact ⟨_, rfl⟩
  | true => exact h rfl

theorem requireOpen_answers {s : State} {k : Result} (h : ∃ t, k = .next t) : ∃ t, requireOpen s k = .next t := by
  obtain ⟨t, next⟩ := h
  cases eos : s.eos with
  | false => exact ⟨t, (requireOpen_eq_next_iff s t k).mpr (.inl ⟨eos, next⟩)⟩
  | true => exact ⟨_, (requireOpen_eq_next_iff s _ k).mpr (.inr ⟨eos, rfl⟩)⟩

theorem withValue_answers {α : Type} {x : Option α} {v : α} {k : α → Result} (found : x = some v)
    (h : ∃ t, k v = .next t) : ∃ t, withValue x k = .next t := by
  obtain ⟨t, next⟩ := h
  exact ⟨t, (withValue_eq_next_iff x k t).mpr ⟨v, found, next⟩⟩

/-- Under the invariant a built table holds every entry a command may read, so no command stops. -/
theorem exec_answers {s : State} (inv : Inv s) (i : Instr) : ∃ t, exec i s = .next t := by
  cases i with
  | bld32 | bld64 | lds32 | lds64 | rds32 | rds64 | sinit | rdtot | rdsr => exact ⟨_, rfl⟩
  | rdt32 idx => exact requireBuilt_answers fun built => withValue_answers (inv.built32 built idx) ⟨_, rfl⟩
  | rdt64 idx => exact requireBuilt_answers fun built => withValue_answers (inv.built64 built idx) ⟨_, rfl⟩
  | upd32 data =>
    exact requireBuilt_answers fun built =>
      withValue_answers (Memory.update_of_read s.t32 _ (inv.built32 built) data s.acc32) ⟨_, rfl⟩
  | upd64 data =>
    exact requireBuilt_answers fun built =>
      withValue_answers (Memory.update_of_read s.t64 _ (inv.built64 built) data s.acc64) ⟨_, rfl⟩
  | schunk data =>
    refine requireBuilt_answers fun built => requireOpen_answers ?_
    obtain ⟨built32, built64⟩ := Bool.and_eq_true_iff.mp built
    split
    · exact ⟨_, rfl⟩
    · exact withValue_answers (Memory.update_of_read s.t32 _ (inv.built32 built32) data s.acc32)
        (withValue_answers (Memory.update_of_read s.t64 _ (inv.built64 built64) data s.acc64) ⟨_, rfl⟩)

/-- Settles O42: an idle step, a reset and a refusal answer in every state, a command under the invariant. -/
theorem invariantStateNeverStops : Obligations.InvariantStateNeverStops := by
  intro s inv
  obtain ⟨-, eq⟩ | ⟨_, rest, -, eq⟩ | ⟨_, rest, c, -, -, eq⟩ | ⟨_, rest, i, -, -, eq⟩ := step_cases s
  · exact ⟨_, eq⟩
  · exact ⟨_, eq⟩
  · exact ⟨_, eq⟩
  · obtain ⟨t, next⟩ := exec_answers (inv_setInputs inv rest) i
    exact ⟨t, eq.trans next⟩

/-! ## Runs -/

theorem run_of_inv {s : State} (inv : Inv s) (k : Nat) : ∃ t, run k s = .next t ∧ Inv t := by
  induction k generalizing s with
  | zero => exact ⟨s, rfl, inv⟩
  | succ k ih =>
    obtain ⟨u, next⟩ := invariantStateNeverStops s inv
    rw [run_succ_of_step next]
    exact ih (stepKeepsInvariant s u inv next)

/-- Settles O43: the invariant holds right after reset, and from there every step answers and keeps it. -/
theorem runsFromResetNeverStop : Obligations.RunsFromResetNeverStop :=
  fun ins k => run_of_inv (inv_setInputs resetSatisfiesInvariant ins) k

/-- Settles O44: ERR is the first fault of the responses, which is 0 exactly when all of them are OK. -/
theorem goodRunReadFromErr : Obligations.GoodRunReadFromErr := by
  intro s inv
  have allOk : s.responses.all (fun r => r.status == 0#4) = true ↔ s.err = 0#4 := by
    rw [inv.firstErr, firstFault_eq_zero_iff, List.all_eq_true]
    simp only [beq_iff_eq]
  rw [good, Bool.and_eq_true, allOk, beq_iff_eq, and_self]

end Sys2Proof.Proofs
end

section
/-! The table-driven engine against the bit-serial CRC (R100, R101, R120, R121). -/

namespace Sys2Proof.Proofs

open Sys2Proof.Machine

section BitSerial

variable {w : Nat}

/-- A register whose low `n` bits are 0 is only shifted in `n` rounds: the polynomial is never added. -/
theorem roundsW_of_low_zero (p : BitVec w) (n : Nat) (r : BitVec w) (low : ∀ k < n, r.getLsbD k = false) :
    roundsW p n r = r >>> n := by
  induction n generalizing r with
  | zero => rw [roundsW_zero, BitVec.ushiftRight_zero]
  | succ n ih =>
    have lowNext : ∀ k < n, (r >>> 1).getLsbD k = false := by
      intro k hk
      rw [BitVec.getLsbD_ushiftRight]
      exact low (1 + k) (by omega)
    rw [roundsW_succ, roundW_of_not_lsb (low 0 n.succ_pos), ih _ lowNext, ← BitVec.shiftRight_add, Nat.add_comm]

/-- A register is the sum of its low byte and the rest of it. -/
theorem eq_lowByte_xor_rest (s : BitVec w) : s = (s.extractLsb' 0 8).setWidth w ^^^ (s >>> 8 <<< 8) := by
  ext k hk
  by_cases h : k < 8
  · simp [h, BitVec.getLsbD_eq_getElem hk]
  · simp [h, Nat.add_sub_cancel' (Nat.le_of_not_lt h), BitVec.getLsbD_eq_getElem hk]

/-- One byte through the table is 8 rounds on the whole register: by linearity the rounds act on the low byte, where
they are the table's entry, and on the rest, which they shift out of the way. -/
theorem stepW_tableEntry (p s : BitVec w) (b : Byte) :
    stepW (tableEntry p) s b = roundsW p 8 (s ^^^ b.setWidth w) := by
  have entry : roundsW p 8 ((engineIndex s b).setWidth w) = tableEntry p (engineIndex s b) := rfl
  have rest : roundsW p 8 (s >>> 8 <<< 8) = s >>> 8 := by
    rw [roundsW_of_low_zero p 8 _ fun k hk => by simp [hk]]
    ext k hk
    simpa using BitVec.lt_of_getLsbD
  have register : s ^^^ b.setWidth w = (engineIndex s b).setWidth w ^^^ (s >>> 8 <<< 8) := by
    rw [engineIndex, BitVec.setWidth_xor, BitVec.xor_assoc, ← eq_lowByte_xor_rest, BitVec.xor_comm]
  rw [register, roundsW_xor, entry, rest, stepW]

end BitSerial

/-- Settles O37: the two folds agree at every byte. -/
theorem tableDrivenEqualsBitSerial : Obligations.TableDrivenEqualsBitSerial := by
  intro w p bytes state
  have same : stepW (tableEntry p) = fun s b => roundsW p 8 (s ^^^ b.setWidth w) := by
    funext s b
    exact stepW_tableEntry p s b
  rw [updateW, same]

end Sys2Proof.Proofs
end

section
/-! What a step runs (R70, R75, R200), and the completion of each command on the state it finds (R102 to R105, R122 to
R127, R152 to R155), with the refusal of an unbuilt table (R64, R171). -/

namespace Sys2Proof.Proofs

open Sys2Proof.Machine Sys2Proof.Statements

/-! ## The step -/

/-- Settles O7: the step takes the command off the host's list, and the transaction runs what it decodes to. -/
theorem stepRunsDecodedCommand : Obligations.StepRunsDecodedCommand := by
  intro s t rest i decoded
  rw [step_command rfl, transact, decoded]
  rfl

theorem step_idle {s : State} (h : s.inputs = []) : step s = .next s := by
  rw [step_eq_takeInput, takeInput, h]

/-- Settles O9: the two steps that take no command. -/
theorem idleAndResetStepsExactly : Obligations.IdleAndResetStepsExactly :=
  ⟨fun _ => step_idle, fun _ _ _ => step_reset rfl⟩

/-! ## Completion -/

/-- Settles O12: the table built is read by `Memory.read_build` and canonical by `Memory.wf_build`. -/
theorem buildCommandsComplete : Obligations.BuildCommandsComplete := by
  intro s
  constructor
  · exact ⟨s.t32.build Config.poly32, s.t32.read_build _, s.t32.wf_build _, (exec_bld32_next_iff s _).mpr rfl⟩
  · exact ⟨s.t64.build Config.poly64, s.t64.read_build _, s.t64.wf_build _, (exec_bld64_next_iff s _).mpr rfl⟩

/-- Settles O13: the built branch of the two reads. -/
theorem readTableCommandsComplete : Obligations.ReadTableCommandsComplete := by
  intro s idx
  constructor
  · intro v built entry
    rw [BitVec.ofNat_toNat]
    exact (exec_rdt32_next_iff s _ idx).mpr (.inl ⟨built, v, entry, rfl⟩)
  · intro v built entry
    exact (exec_rdt64_next_iff s _ idx).mpr (.inl ⟨built, v, entry, rfl⟩)

/-- Settles O14: the built branch of the two updates, over a table that holds every entry. -/
theorem updateCommandsComplete : Obligations.UpdateCommandsComplete := by
  intro s data
  constructor
  · intro T built holds
    exact (exec_upd32_of_holds (fun _ => holds) data s.inputs).trans (if_neg (Bool.ne_false_iff.mpr built))
  · intro U built holds
    exact (exec_upd64_of_holds (fun _ => holds) data s.inputs).trans (if_neg (Bool.ne_false_iff.mpr built))

/-- Settles O15: a load has one branch. -/
theorem loadStateCommandsComplete : Obligations.LoadStateCommandsComplete :=
  fun s a b => ⟨(exec_lds32_next_iff s _ a).mpr rfl, (exec_lds64_next_iff s _ b).mpr rfl⟩

/-- Settles O16: a read of the checksum state has one branch, and the 32-bit value is zero-extended. -/
theorem readStateCommandsComplete : Obligations.ReadStateCommandsComplete := by
  intro s
  rw [BitVec.ofNat_toNat]
  exact ⟨(exec_rds32_next_iff s _).mpr rfl, (exec_rds64_next_iff s _).mpr rfl⟩

/-- Settles O17: SINIT has one branch. -/
theorem sessionInitCompletes : Obligations.SessionInitCompletes := fun s => (exec_sinit_next_iff s _).mpr rfl

/-- Settles O18: in an open session with both tables built SCHUNK takes its last two branches, the end of stream and the
two folds. -/
theorem chunkCommandCompletes : Obligations.ChunkCommandCompletes := by
  intro s data T U built32 built64 isOpen holds32 holds64
  have result := exec_schunk_of_holds (fun _ => holds32) (fun _ => holds64) data s.inputs
  rw [if_neg (by simp [built32, built64]), if_neg (by simp [isOpen])] at result
  exact ⟨fun empty => result.trans (if_pos empty), fun nonempty => result.trans (if_neg nonempty)⟩

/-- Settles O19: TOTAL as it stands, and STATUS by its value as a number. -/
theorem readTotalAndStatusComplete : Obligations.ReadTotalAndStatusComplete := by
  intro s
  rw [← toNat_statusView, BitVec.ofNat_toNat]
  exact ⟨(exec_rdtot_next_iff s _).mpr rfl, (exec_rdsr_next_iff s _).mpr rfl⟩

/-! ## Refusal -/

/-- Settles O20: the unbuilt branch of the five commands that need a table. -/
theorem unbuiltTableRefused : Obligations.UnbuiltTableRefused := by
  intro s data idx
  refine ⟨fun unbuilt => ⟨?_, ?_⟩, fun unbuilt => ⟨?_, ?_⟩, fun unbuilt => ?_⟩
  · exact (exec_upd32_next_iff s _ data).mpr (.inr ⟨unbuilt, rfl⟩)
  · exact (exec_rdt32_next_iff s _ idx).mpr (.inr ⟨unbuilt, rfl⟩)
  · exact (exec_upd64_next_iff s _ data).mpr (.inr ⟨unbuilt, rfl⟩)
  · exact (exec_rdt64_next_iff s _ idx).mpr (.inr ⟨unbuilt, rfl⟩)
  · exact (exec_schunk_next_iff s _ data).mpr (.inr (.inr (.inr ⟨Bool.and_eq_false_iff.mpr unbuilt, rfl⟩)))

end Sys2Proof.Proofs
end
